-- ==== Sys2Proof/Word.lean ====
section
/-! DEFINITION. The word types of the block: registers and command words are 32 bits (10_state.md R21,
30_encoding.md R90), memories are bytes (20_memory.md R67). Every value is unsigned (00_scope.md R7). -/

namespace Sys2Proof

/-- A register or a command word. -/
abbrev Word := BitVec 32

/-- A memory byte, a pen, an ink or a screen byte. -/
abbrev Byte := BitVec 8

end Sys2Proof
end

