-- ==== Sys2Proof/Syntax.lean ====
section
/-! DEFINITION. The commands of CPCPX, one constructor of `Instr` per row of spec/opcode_table.json, and the
fields of the one command-word format (30_encoding.md R90). -/

namespace Sys2Proof

/-- MODE = CMD[9:8], the CPC screen mode (30_encoding.md R92). -/
inductive Mode
  | m0 | m1 | m2 | m3
deriving DecidableEq, Repr

/-- TAIL = CMD[10]: crop the incomplete last byte, or pad it with the replacement pen (30_encoding.md R93). -/
inductive Tail
  | crop | pad
deriving DecidableEq, Repr

/-- HDIR = CMD[13:12], the horizontal scan direction in the order of its codes 0 to 3 (30_encoding.md R95). -/
inductive HDir
  | leftToRight | rightToLeft | startFromLeftAndFlip | startFromRightAndFlip
deriving DecidableEq, Repr

/-- VDIR = CMD[15:14], the vertical scan direction in the order of its codes 0 to 3 (30_encoding.md R96). -/
inductive VDir
  | topToBottom | bottomToTop | grayCodeFromTop | flipAtEnd
deriving DecidableEq, Repr

/-- The 29 commands (30_encoding.md R98). Operands are not in the command word (R102), so a command carries only the
fields its row names. CROP (R94) is a Bool: true is CMD[11] = 1. -/
inductive Instr
  | nop
  | enc0
  | dec0
  | enc1
  | dec1
  | enc2
  | dec2
  | enc3
  | dec3
  | mix03
  | limit (mode : Mode)
  | rgb2ink
  | ink2rgb
  | ink2ga
  | pget
  | pfind
  | danext
  | rgbq
  | i2p
  | p2i
  | penc (mode : Mode) (tail : Tail)
  | pdec (mode : Mode)
  | sprlin
  | sprgray
  | sprungray
  | sprzz
  | sprlrl
  | tiles (hdir : HDir) (vdir : VDir)
  | memblk (crop : Bool)
deriving DecidableEq, Repr

/-- A command word cut into the fields of its one format (30_encoding.md R90). -/
structure CommandFields where
  /-- OPC, bits 7:0. -/
  opc : Byte
  /-- MODE, bits 9:8. -/
  mode : BitVec 2
  /-- TAIL, bit 10. -/
  tail : BitVec 1
  /-- CROP, bit 11. -/
  crop : BitVec 1
  /-- HDIR, bits 13:12. -/
  hdir : BitVec 2
  /-- VDIR, bits 15:14. -/
  vdir : BitVec 2
  /-- Bits 31:16, which must be 0. -/
  reserved : BitVec 16
deriving DecidableEq, Repr

end Sys2Proof
end

