-- ==== Sys2Proof/WellFormed.lean ====
section
/-! DEFINITION. When a command word is legal (30_encoding.md R97): its OPC is in the table of R98 and every field that
command does not use is 0. The checks are on `CommandFields`; an `Instr` carries only fields its row uses, each of a type
with exactly the legal codes, so its own check is that its fields make a legal word. -/

namespace Sys2Proof

/-- Which of the optional fields a command uses: the column "fields" of 30_encoding.md R98. -/
structure UsedFields where
  mode : Bool := false
  tail : Bool := false
  crop : Bool := false
  hdir : Bool := false
  vdir : Bool := false
deriving DecidableEq, Repr

/-- The opcode numbers of 30_encoding.md R98. -/
def Instr.opc : Instr → Byte
  | .nop => 0x00
  | .enc0 => 0x01
  | .dec0 => 0x02
  | .enc1 => 0x03
  | .dec1 => 0x04
  | .enc2 => 0x05
  | .dec2 => 0x06
  | .enc3 => 0x07
  | .dec3 => 0x08
  | .mix03 => 0x09
  | .limit _ => 0x0A
  | .rgb2ink => 0x10
  | .ink2rgb => 0x11
  | .ink2ga => 0x12
  | .pget => 0x13
  | .pfind => 0x14
  | .danext => 0x20
  | .rgbq => 0x30
  | .i2p => 0x31
  | .p2i => 0x32
  | .penc _ _ => 0x33
  | .pdec _ => 0x34
  | .sprlin => 0x40
  | .sprgray => 0x41
  | .sprungray => 0x42
  | .sprzz => 0x43
  | .sprlrl => 0x44
  | .tiles _ _ => 0x45
  | .memblk _ => 0x50

/-- The row uses no field but OPC. -/
def noFields : UsedFields := ⟨false, false, false, false, false⟩

/-- The assigned opcodes of 30_encoding.md R98 with the fields each uses. -/
def opcodeMap : List (Byte × UsedFields) :=
  [(0x00, noFields), (0x01, noFields), (0x02, noFields), (0x03, noFields), (0x04, noFields), (0x05, noFields),
   (0x06, noFields), (0x07, noFields), (0x08, noFields), (0x09, noFields), (0x0A, { mode := true })] ++
  [(0x10, noFields), (0x11, noFields), (0x12, noFields), (0x13, noFields), (0x14, noFields), (0x20, noFields),
   (0x30, noFields), (0x31, noFields), (0x32, noFields),
   (0x33, { mode := true, tail := true }), (0x34, { mode := true })] ++
  [(0x40, noFields), (0x41, noFields), (0x42, noFields), (0x43, noFields), (0x44, noFields),
   (0x45, { hdir := true, vdir := true }),
   (0x50, { crop := true })]

/-- The fields an opcode uses, or none when the opcode is unassigned (30_encoding.md R99). -/
def usedFields (opc : Byte) : Option UsedFields := opcodeMap.lookup opc

/-- Check 1: OPC is in the table of 30_encoding.md R98. -/
def CommandFields.opcAssigned (f : CommandFields) : Bool := (usedFields f.opc).isSome

/-- Check 2: every optional field the command does not use is 0 (30_encoding.md R97). -/
def CommandFields.unusedZero (f : CommandFields) : Bool :=
  match usedFields f.opc with
  | none => false
  | some u =>
    (u.mode || f.mode == 0) && (u.tail || f.tail == 0) && (u.crop || f.crop == 0) && (u.hdir || f.hdir == 0) &&
      (u.vdir || f.vdir == 0)

/-- Check 3: bits 31:16 are never used (30_encoding.md R97). -/
def CommandFields.reservedZero (f : CommandFields) : Bool := f.reserved == 0

/-- A legal command word (30_encoding.md R97). -/
def CommandFields.wellFormed (f : CommandFields) : Bool := f.opcAssigned && f.unusedZero && f.reservedZero

/-- The code of a mode (30_encoding.md R92). -/
def Mode.code : Mode → BitVec 2
  | .m0 => 0
  | .m1 => 1
  | .m2 => 2
  | .m3 => 3

/-- The code of a tail choice (30_encoding.md R93). -/
def Tail.code : Tail → BitVec 1
  | .crop => 0
  | .pad => 1

/-- The code of a horizontal direction (30_encoding.md R95). -/
def HDir.code : HDir → BitVec 2
  | .leftToRight => 0
  | .rightToLeft => 1
  | .startFromLeftAndFlip => 2
  | .startFromRightAndFlip => 3

/-- The code of a vertical direction (30_encoding.md R96). -/
def VDir.code : VDir → BitVec 2
  | .topToBottom => 0
  | .bottomToTop => 1
  | .grayCodeFromTop => 2
  | .flipAtEnd => 3

/-- The fields of a command's word: its opcode, the fields it carries, 0 elsewhere (30_encoding.md R90). -/
def Instr.toFields (i : Instr) : CommandFields :=
  let base : CommandFields := ⟨i.opc, 0, 0, 0, 0, 0, 0⟩
  match i with
  | .limit mode => { base with mode := mode.code }
  | .penc mode tail => { base with mode := mode.code, tail := tail.code }
  | .pdec mode => { base with mode := mode.code }
  | .tiles hdir vdir => { base with hdir := hdir.code, vdir := vdir.code }
  | .memblk crop => { base with crop := BitVec.ofBool crop }
  | _ => base

/-- A well-formed command: its word is legal. -/
def Instr.wellFormed (i : Instr) : Bool := i.toFields.wellFormed

end Sys2Proof
end

