-- ==== Sys2Proof/Decode.lean ====
section
/-! DEFINITION. The decoder, total on every 32-bit command word and rejecting by name, and after it the encoder
(30_encoding.md R90 to R101). -/

namespace Sys2Proof

/-- Why a command word is illegal; both raise ILLEGAL_OPCODE (30_encoding.md R97, R99). -/
inductive DecodeError
  /-- OPC is in no row of the table (R99). -/
  | unassignedOpcode (opc : Byte)
  /-- A bit outside OPC and the fields the command uses is 1 (R97). -/
  | strayBits (opc : Byte)
deriving DecidableEq, Repr

/-- What the decoder answers. -/
inductive Decoded
  | instr (i : Instr)
  | illegal (e : DecodeError)
deriving DecidableEq, Repr

/-- The fields of a command word (30_encoding.md R90). -/
def splitWord (w : Word) : CommandFields :=
  { opc := w.extractLsb' 0 8
    mode := w.extractLsb' 8 2
    tail := w.extractLsb' 10 1
    crop := w.extractLsb' 11 1
    hdir := w.extractLsb' 12 2
    vdir := w.extractLsb' 14 2
    reserved := w.extractLsb' 16 16 }

/-- The word whose fields are given (30_encoding.md R90). -/
def joinWord (f : CommandFields) : Word :=
  f.reserved ++ f.vdir ++ f.hdir ++ f.crop ++ f.tail ++ f.mode ++ f.opc

/-- 30_encoding.md R92. -/
def modeOfCode (c : BitVec 2) : Mode :=
  match c.toNat with
  | 0 => .m0
  | 1 => .m1
  | 2 => .m2
  | _ => .m3

/-- 30_encoding.md R93. -/
def tailOfCode (c : BitVec 1) : Tail := if c = 0 then .crop else .pad

/-- 30_encoding.md R95. -/
def hdirOfCode (c : BitVec 2) : HDir :=
  match c.toNat with
  | 0 => .leftToRight
  | 1 => .rightToLeft
  | 2 => .startFromLeftAndFlip
  | _ => .startFromRightAndFlip

/-- 30_encoding.md R96. -/
def vdirOfCode (c : BitVec 2) : VDir :=
  match c.toNat with
  | 0 => .topToBottom
  | 1 => .bottomToTop
  | 2 => .grayCodeFromTop
  | _ => .flipAtEnd

/-- The command an opcode selects, with its fields read from the word (30_encoding.md R91, R98). -/
def instrOfFields (f : CommandFields) : Option Instr :=
  match f.opc.toNat with
  | 0x00 => some .nop
  | 0x01 => some .enc0
  | 0x02 => some .dec0
  | 0x03 => some .enc1
  | 0x04 => some .dec1
  | 0x05 => some .enc2
  | 0x06 => some .dec2
  | 0x07 => some .enc3
  | 0x08 => some .dec3
  | 0x09 => some .mix03
  | 0x0A => some (.limit (modeOfCode f.mode))
  | 0x10 => some .rgb2ink
  | 0x11 => some .ink2rgb
  | 0x12 => some .ink2ga
  | 0x13 => some .pget
  | 0x14 => some .pfind
  | 0x20 => some .danext
  | 0x30 => some .rgbq
  | 0x31 => some .i2p
  | 0x32 => some .p2i
  | 0x33 => some (.penc (modeOfCode f.mode) (tailOfCode f.tail))
  | 0x34 => some (.pdec (modeOfCode f.mode))
  | 0x40 => some .sprlin
  | 0x41 => some .sprgray
  | 0x42 => some .sprungray
  | 0x43 => some .sprzz
  | 0x44 => some .sprlrl
  | 0x45 => some (.tiles (hdirOfCode f.hdir) (vdirOfCode f.vdir))
  | 0x50 => some (.memblk (f.crop == 1))
  | _ => none

/-- The decoder (30_encoding.md R97, R98, R99): the opcode selects the row, then every bit the row does not use must be 0.
The mask printed for TILES in R98 leaves bits 11:8 free, against R97's words; the words are followed (DEDUCED, log
entry 11). -/
def decode (w : Word) : Decoded :=
  let f := splitWord w
  match instrOfFields f with
  | none => .illegal (.unassignedOpcode f.opc)
  | some i => if f.wellFormed then .instr i else .illegal (.strayBits f.opc)

/-- The encoder: the command word of a command (30_encoding.md R90, R98). -/
def encode (i : Instr) : Word := joinWord i.toFields

/-- The mask of a row of 30_encoding.md R98: the bits that are fixed, every bit but those of the fields the row uses. It is
the printed mask of every row but TILES (log entry 11). -/
def rowMask (u : UsedFields) : Word :=
  ~~~ joinWord
    { opc := 0
      mode := if u.mode then 3 else 0
      tail := if u.tail then 1 else 0
      crop := if u.crop then 1 else 0
      hdir := if u.hdir then 3 else 0
      vdir := if u.vdir then 3 else 0
      reserved := 0 }

/-- 30_encoding.md R97 in its other form: `(CMD & mask) == match` for the row of its OPC. -/
def matchesRow (w : Word) : Bool :=
  opcodeMap.any fun (opc, u) => opc == w.extractLsb' 0 8 && (w &&& rowMask u) == opc.setWidth 32

/-- The host's reading of a table word: the low nbits bits of w, every bit above them 0, as one command word. -/
def decodeTableWord (nbits w : Nat) : Option Instr :=
  match decode (BitVec.ofNat 32 (w % 2 ^ nbits)) with
  | .instr i => some i
  | .illegal _ => none

end Sys2Proof
end

