-- ==== Sys2Proof/Config.lean ====
section
/-! DEFINITION. The implementation parameters of 00_scope.md R6, and the source of free values.
The parameters are data a model takes as an argument: State carries one `Config`, no step changes it, and
statements over all states are over every parameter (log entry 3). -/

namespace Sys2Proof

/-- An RGB colour: three bytes (41_ink_palette.md R170). -/
structure Rgb where
  r : Byte
  g : Byte
  b : Byte
deriving DecidableEq, Repr

/-- The parameters of 00_scope.md R6 that a rule names.
LATENCY is not here: it is where the engine's move stands in the schedule (log entry 9). -/
structure Config where
  /-- `DMEM_SIZE`: bytes of data memory. Its upper bound 0xFFFFFFFF is the type's. -/
  dmemSize : Word
  /-- `INK_RGB`: the colour of each of the 27 inks. -/
  inkRgb : Vector Rgb 27
  /-- `INK_GA`: the Gate-Array byte of each of the 27 inks. -/
  inkGa : Vector Byte 27
  /-- `REG_BASE`: where the host's platform places the register file. -/
  regBase : Nat
  /-- `DMEM_BASE`: where the host's platform places the data memory. -/
  dmemBase : Nat
  /-- `PMEM_BASE`: where the host's platform places the page memory. -/
  pmemBase : Nat
deriving DecidableEq, Repr

/-- `DMEM_SIZE` is at least 0x10000 (00_scope.md R6); that it is at most 0xFFFFFFFF is the field's type. -/
def Config.wf (c : Config) : Bool := decide (0x10000 ≤ c.dmemSize.toNat)

/-- Free value number n: a 32-bit result the spec does not state (DESIGN CHOICE, log entry 6).
It has no body, so nothing can be proved of its value. -/
opaque Config.freeWord : Nat → Word

end Sys2Proof
end

