-- ==== Sys2Proof/Machine/Defaults.lean ====
section
/-! DEFINITION. The parameter values State.reset carries (log entry 3): the spec's default ink tables
(41_ink_palette.md R170, which the spec itself marks as general knowledge) and the DMEM_SIZE of the spec's vectors. -/

namespace Sys2Proof.Machine

/-- The three levels of a colour channel (41_ink_palette.md R170). -/
def defaultLevel (n : Nat) : Byte :=
  match n with
  | 0 => 0x00
  | 1 => 0x80
  | _ => 0xFF

/-- `INK_RGB[i] = (level[(i / 3) % 3], level[i / 9], level[i % 3])` (41_ink_palette.md R170). -/
def defaultInkColour (i : Nat) : Rgb :=
  { r := defaultLevel ((i / 3) % 3), g := defaultLevel (i / 9), b := defaultLevel (i % 3) }

/-- The default `INK_RGB` (41_ink_palette.md R170). -/
def defaultInkRgb : Vector Rgb 27 := Vector.ofFn fun i => defaultInkColour i.val

/-- The default `INK_GA` (41_ink_palette.md R170). -/
def defaultInkGa : Vector Byte 27 :=
  #v[0x54, 0x44, 0x55, 0x5C, 0x58, 0x5D, 0x4C, 0x45, 0x4D, 0x56, 0x46, 0x57, 0x5E, 0x40, 0x5F, 0x4E, 0x47, 0x4F,
    0x52, 0x42, 0x53, 0x5A, 0x59, 0x5B, 0x4A, 0x43, 0x4B]

/-- The parameters of State.reset: DESIGN CHOICE, log entry 3. -/
def defaultConfig : Config :=
  { dmemSize := 0x10000
    inkRgb := defaultInkRgb
    inkGa := defaultInkGa
    regBase := 0
    dmemBase := 0
    pmemBase := 0 }

end Sys2Proof.Machine
end

