-- ==== Sys2Proof/Machine/Memory.lean ====
section
/-! DEFINITION. Memory as a list of (address, byte) cells in one canonical form: addresses strictly rising and no cell
equal to what an unlisted address reads as. It stands for DMEM (10_state.md R48) and PMEM (R49). -/

namespace Sys2Proof.Machine

/-- A memory: its cells in canonical form (`memWf`). -/
abbrev Memory := List Host.Cell

/-- What an address that no cell lists reads as. The spec leaves the contents after reset unspecified
(70_reset_and_hazards.md R351): DESIGN CHOICE, log entry 4. -/
def unlistedByte : Byte := 0

/-- `MemRead(a, 1)` and `PMemRead(a, 1)` (00_scope.md R9): the byte at address a. -/
def memRead : Memory → Nat → Byte
  | [], _ => unlistedByte
  | (k, v) :: rest, a => if k = a then v else memRead rest a

/-- A cell in front of a memory, unless the cell says what an unlisted address says. -/
def memCons (a : Nat) (b : Byte) (rest : Memory) : Memory :=
  if b = unlistedByte then rest else (a, b) :: rest

/-- `MemWrite(a, 1, b)` and `PMemWrite(a, 1, b)` (00_scope.md R9): byte b at address a, the form kept canonical. -/
def memWrite : Memory → Nat → Byte → Memory
  | [], a, b => memCons a b []
  | (k, v) :: rest, a, b =>
    if a < k then memCons a b ((k, v) :: rest)
    else if a = k then memCons a b rest
    else (k, v) :: memWrite rest a b

/-- A list of scheduled writes in the order the command scheduled them: a later write to a byte wins
(20_memory.md R73). -/
def memWriteAll (m : Memory) (ws : List Host.Cell) : Memory :=
  ws.foldl (fun m c => memWrite m c.1 c.2) m

/-- Every cell's address is at or above lo and below the one after it, and no cell says what an unlisted address says. -/
def memWfFrom : Nat → Memory → Bool
  | _, [] => true
  | lo, (k, v) :: rest => decide (lo ≤ k) && decide (v ≠ unlistedByte) && memWfFrom (k + 1) rest

/-- The canonical form: equal memories are equal data. -/
def memWf (m : Memory) : Bool := memWfFrom 0 m

/-- Every listed address is below the memory's size (20_memory.md R62, R63). -/
def memWithin (size : Nat) (m : Memory) : Bool := m.all fun c => decide (c.1 < size)

/-- The canonical memory that holds given contents: cells outside the memory are dropped, a later cell wins. -/
def memOfCells (size : Nat) (cs : List Host.Cell) : Memory :=
  memWriteAll [] (cs.filter fun c => decide (c.1 < size))

/-- The size of PMEM: four pages of 0x4000 bytes (10_state.md R49). -/
def pmemSize : Nat := 0x10000

end Sys2Proof.Machine
end

