-- ==== Sys2Proof/Machine/State.lean ====
section
/-! DEFINITION. The machine's state as plain data (10_state.md), the moves of its agents, why a step stops, and the state
after reset (70_reset_and_hazards.md R350). -/

namespace Sys2Proof.Machine

/-- STATUS (10_state.md R24). Its reserved bits have no storage: they read 0 and ignore writes (R45). -/
structure Status where
  /-- Bit 0: a command is pending (R25). -/
  busy : Bool
  /-- Bit 1: a command completed since the bit was last cleared (R26). -/
  done : Bool
  /-- Bit 2: a command completed with an error since the bit was last cleared (R27). -/
  err : Bool
  /-- Bit 3: a host write was refused because a command was pending (R28). -/
  ovr : Bool
  /-- Bits 15:8: error code of the last completed command (R29). -/
  errcode : Byte
  /-- Bit 16: a mode-1 or mode-2 pen above 3 was forced to 0 (R30). -/
  wClamp : Bool
  /-- Bit 17: MEMBLK with CROP proceeded with a sprite smaller than the screen (R30). -/
  wDim : Bool
  /-- Bit 18: MEMBLK touched a page count that is neither standard nor overscan (R30). -/
  wPages : Bool
  /-- Bits 23:20: pages touched by the last successful MEMBLK (R31). -/
  pageMask : BitVec 4
  /-- Bits 25:24: result kind of the last successful MEMBLK (R31). -/
  memKind : BitVec 2
deriving DecidableEq, Repr

/-- STATUS after reset: every field 0 (R24, R350). -/
def Status.reset : Status :=
  { busy := false, done := false, err := false, ovr := false, errcode := 0
    wClamp := false, wDim := false, wPages := false, pageMask := 0, memKind := 0 }

/-- One PAL register: VALID is bit 7, INK bits 4:0, the other bits read 0 (R43). -/
structure PalEntry where
  /-- The pen is set. -/
  valid : Bool
  /-- The ink, 0 to 31 (R44). -/
  ink : BitVec 5
deriving DecidableEq, Repr

/-- An unset pen, the reset value of a PAL register (R43). -/
def PalEntry.unset : PalEntry := ⟨false, 0⟩

/-- The operand snapshot taken at command accept (R46, 30_encoding.md R103). -/
structure Snapshot where
  cmd : Word
  args : Vector Word 8
  da : BitVec 14
  scrdim : BitVec 21
  pal : Vector PalEntry 17
  /-- DMEM at accept: what the command's `MemRead` sees (00_scope.md R9). -/
  dmem : Memory
  /-- PMEM at accept: what a command's `PMemRead` would see; no command of the table reads PMEM. -/
  pmem : Memory
deriving DecidableEq, Repr

/-- The snapshot when it has been discarded: nothing (DESIGN CHOICE for the form, log entry 7). -/
def Snapshot.discarded : Snapshot :=
  { cmd := 0, args := Vector.replicate 8 0, da := 0, scrdim := 0, pal := Vector.replicate 17 PalEntry.unset
    dmem := [], pmem := [] }

/-- The two memories a host reaches by bytes (20_memory.md R60, R69). -/
inductive MemSpace
  | dmem
  | pmem
deriving DecidableEq, Repr

/-- One move of one agent (00_scope.md R12). `width` is the access width in bytes. -/
inductive Event
  /-- The engine's turn: it completes the pending command, and has no step when none is pending. -/
  | engine
  /-- The host reads REG at a byte offset (20_memory.md R61, R68). -/
  | regRead (offset width : Nat)
  /-- The host writes REG at a byte offset (20_memory.md R61, R68). -/
  | regWrite (offset width : Nat) (value : Word)
  /-- The host reads one byte of DMEM or PMEM (20_memory.md R69). -/
  | byteRead (space : MemSpace) (addr : Nat)
  /-- The host writes one byte of DMEM or PMEM (20_memory.md R69). -/
  | byteWrite (space : MemSpace) (addr : Nat) (value : Byte)
  /-- The platform's reset input (70_reset_and_hazards.md R350). The memories' contents after it are the arguments:
  any value (R351). -/
  | hardReset (dmem pmem : List Host.Cell)
deriving DecidableEq, Repr

/-- The whole machine: the architectural state of 10_state.md R20, then four fields of the model's own. -/
structure State where
  /-- CTRL.IE (R23). -/
  ie : Bool
  /-- STATUS (R24). -/
  status : Status
  /-- CMD: the last accepted command word (R32). -/
  cmd : Word
  /-- ARG0 to ARG7 (R33). -/
  args : Vector Word 8
  /-- RES0 (R34). -/
  res0 : Word
  /-- RES1 (R34). -/
  res1 : Word
  /-- ERRINFO0 to ERRINFO3 (R35). -/
  errinfo : Vector Word 4
  /-- DA, the DisplayAddress; bits 31:14 are hardwired to 0 and have no storage (R36). -/
  da : BitVec 14
  /-- SCRDIM; bits 31:21 read 0 and have no storage (R39). -/
  scrdim : BitVec 21
  /-- PAL0 to PAL16 (R43). -/
  pal : Vector PalEntry 17
  /-- The hidden flag `pending` (R46). -/
  pending : Bool
  /-- The hidden operand snapshot (R46). -/
  snap : Snapshot
  /-- DMEM (R48). -/
  dmem : Memory
  /-- PMEM (R49). -/
  pmem : Memory
  /-- The model's own: the implementation parameters, changed by no step (00_scope.md R6, log entry 3). -/
  cfg : Config
  /-- The model's own: the moves still to come, first move first (log entry 1). -/
  schedule : List Event
  /-- The model's own: the value the last host read returned (log entry 5). -/
  rdata : Word
  /-- The model's own: how many free values have been consumed (log entry 6). -/
  freeCount : Nat
deriving DecidableEq, Repr

/-- Why the machine stops at a host step that reaches an address the spec says does not exist. Each is safe: the model
stops where a platform would do something of its own. No command raises one. -/
inductive Fault
  /-- A REG access at an offset of 0x100 or above (20_memory.md R61). Raised by a host register access. Safe. -/
  | outsideReg (offset : Nat)
  /-- A DMEM access at or above DMEM_SIZE (20_memory.md R62). Raised by a host byte access. Safe. -/
  | outsideDmem (addr : Nat)
  /-- A PMEM access above 0xFFFF (20_memory.md R63). Raised by a host byte access. Safe. -/
  | outsidePmem (addr : Nat)
deriving DecidableEq, Repr

/-- Why a step has no meaning. Each is safe. -/
inductive Refusal
  /-- A command with no meaning yet, by its mnemonic. Raised by exec alone; no arm of exec raises it now. Safe. -/
  | notModelled (mnemonic : String)
  /-- A REG access that is not a 32-bit access at a multiple of 4: "a model refuses the host step that makes it"
  (20_memory.md R68). Raised by a host register access. Safe. -/
  | regAccessForm (offset width : Nat)
  /-- A host access to DMEM or PMEM while STATUS.BUSY = 1: "A model refuses the host step that makes it"
  (70_reset_and_hazards.md R357). Raised by a host byte access. Safe. -/
  | pendingWindowAccess (space : MemSpace) (addr : Nat)
deriving DecidableEq, Repr

/-- The outcome of one step of this machine. -/
abbrev StepOutcome := Host.Outcome State Fault Refusal

/-- The machine right after a hardware reset with given parameters and given memory contents
(70_reset_and_hazards.md R350, R351: "A model takes them as an argument (any value)"). -/
def State.resetWith (cfg : Config) (dmem pmem : Memory) : State :=
  { ie := false
    status := Status.reset
    cmd := 0
    args := Vector.replicate 8 0
    res0 := 0
    res1 := 0
    errinfo := Vector.replicate 4 0
    da := 0
    scrdim := 0
    pal := Vector.replicate 17 PalEntry.unset
    pending := false
    snap := Snapshot.discarded
    dmem := dmem
    pmem := pmem
    cfg := cfg
    schedule := []
    rdata := 0
    freeCount := 0 }

/-- The machine right after reset (70_reset_and_hazards.md R350), with the memories listing nothing (log entry 4) and the
parameters of log entry 3. -/
def State.reset : State := State.resetWith defaultConfig [] []

end Sys2Proof.Machine
end

