-- ==== Sys2Proof/Machine/Errors.lean ====
section
/-! DEFINITION. The errors of 60_exceptions.md R311 with their codes and their information registers (R312). -/

namespace Sys2Proof.Machine

/-- Which range of a command BAD_ADDR names (60_exceptions.md R312). -/
inductive RangeSide
  | source
  | destination
deriving DecidableEq, Repr

/-- `raise E(i0, i1, i2, i3)` with its arguments (60_exceptions.md R311, R312). -/
inductive CmdError
  | illegalOpcode (cmd : Word)
  | badPen (index : Nat) (pen : Byte)
  | badInk (index : Nat) (ink : Byte)
  | penUnset (index : Nat) (pen : Byte)
  | inkNotInPalette (index : Nat) (ink : Byte)
  | badHeight (height : Nat)
  | gridMismatch (needWidth needHeight w h : Nat)
  | dimMismatch (screenWidth screenHeight w h : Nat)
  | badAddr (start finish : Nat) (side : RangeSide)
  | badArg (value largest : Nat)
  | unsupported (cmd : Word)
deriving DecidableEq, Repr

/-- `sat32(v)` (00_scope.md R8). -/
def sat32 (v : Nat) : Word := BitVec.ofNat 32 (min v 0xFFFFFFFF)

/-- `code(E)` (60_exceptions.md R311). -/
def errorCode : CmdError → Byte
  | .illegalOpcode _ => 0x01
  | .badPen _ _ => 0x02
  | .badInk _ _ => 0x03
  | .penUnset _ _ => 0x04
  | .inkNotInPalette _ _ => 0x05
  | .badHeight _ => 0x06
  | .gridMismatch _ _ _ _ => 0x07
  | .dimMismatch _ _ _ _ => 0x08
  | .badAddr _ _ _ => 0x09
  | .badArg _ _ => 0x0A
  | .unsupported _ => 0x0B

/-- ERRINFO2 of BAD_ADDR: 0 for a source range, 1 for a destination range (60_exceptions.md R312). -/
def sideCode : RangeSide → Word
  | .source => 0
  | .destination => 1

/-- ERRINFO0 to ERRINFO3 of an error (60_exceptions.md R312); what the error does not give is 0. -/
def errorInfo : CmdError → Vector Word 4
  | .illegalOpcode cmd => #v[cmd, 0, 0, 0]
  | .badPen index pen => #v[BitVec.ofNat 32 index, pen.setWidth 32, 0, 0]
  | .badInk index ink => #v[BitVec.ofNat 32 index, ink.setWidth 32, 0, 0]
  | .penUnset index pen => #v[BitVec.ofNat 32 index, pen.setWidth 32, 0, 0]
  | .inkNotInPalette index ink => #v[BitVec.ofNat 32 index, ink.setWidth 32, 0, 0]
  | .badHeight height => #v[BitVec.ofNat 32 height, 8, 0, 0]
  | .gridMismatch needWidth needHeight w h =>
    #v[sat32 needWidth, sat32 needHeight, BitVec.ofNat 32 w, BitVec.ofNat 32 h]
  | .dimMismatch sw sh w h => #v[BitVec.ofNat 32 sw, BitVec.ofNat 32 sh, BitVec.ofNat 32 w, BitVec.ofNat 32 h]
  | .badAddr start finish side => #v[BitVec.ofNat 32 start, sat32 finish, sideCode side, 0]
  | .badArg value largest => #v[BitVec.ofNat 32 value, BitVec.ofNat 32 largest, 0, 0]
  | .unsupported cmd => #v[cmd, 0, 0, 0]

end Sys2Proof.Machine
end

