-- ==== Sys2Proof/Machine/Flags.lean ====
section
/-! DEFINITION. STATUS as a word, its W1C bits, the flags every completion writes, the warnings, and the IRQ output
(10_state.md R24 to R31, 60_exceptions.md R313, R316 to R318). -/

namespace Sys2Proof.Machine

/-- A one-bit field at a bit position of a register. -/
def bitField (b : Bool) (pos : Nat) : Word := (BitVec.ofBool b).setWidth 32 <<< pos

/-- STATUS as the host reads it (10_state.md R24); reserved bits read 0 (R45). -/
def statusWord (st : Status) : Word :=
  bitField st.busy 0 ||| bitField st.done 1 ||| bitField st.err 2 ||| bitField st.ovr 3 |||
    (st.errcode.setWidth 32 <<< 8) ||| bitField st.wClamp 16 ||| bitField st.wDim 17 ||| bitField st.wPages 18 |||
    (st.pageMask.setWidth 32 <<< 20) ||| (st.memKind.setWidth 32 <<< 24)

/-- A host write to STATUS: 1 clears a W1C bit, 0 leaves it, the other bits ignore it (10_state.md R24, R45,
60_exceptions.md R318). -/
def statusClear (st : Status) (v : Word) : Status :=
  { st with
    done := st.done && !v.getLsbD 1
    err := st.err && !v.getLsbD 2
    ovr := st.ovr && !v.getLsbD 3
    wClamp := st.wClamp && !v.getLsbD 16
    wDim := st.wDim && !v.getLsbD 17
    wPages := st.wPages && !v.getLsbD 18 }

/-- STATUS.OVR set: a host write was refused because a command was pending (10_state.md R28). -/
def statusRefused (st : Status) : Status := { st with ovr := true }

/-- The warnings of 60_exceptions.md R313. -/
structure Warnings where
  clamp : Bool
  dim : Bool
  pages : Bool
deriving DecidableEq, Repr

/-- No `warn` was reached. -/
def noWarnings : Warnings := ⟨false, false, false⟩

/-- STATUS at the completion of a successful command: ERRCODE 0, BUSY 0, DONE 1, the recorded warnings set, ERR and OVR as
they were (30_encoding.md R104, R105; 60_exceptions.md R313, R316). PAGEMASK and MEMKIND are written by MEMBLK alone
(10_state.md R31). -/
def statusSuccess (st : Status) (w : Warnings) (memblk : Option (BitVec 4 × BitVec 2)) : Status :=
  { st with
    busy := false
    done := true
    errcode := 0
    wClamp := st.wClamp || w.clamp
    wDim := st.wDim || w.dim
    wPages := st.wPages || w.pages
    pageMask := (memblk.map Prod.fst).getD st.pageMask
    memKind := (memblk.map Prod.snd).getD st.memKind }

/-- STATUS at the completion of a command that raised an error: ERRCODE, ERR 1, BUSY 0, DONE 1, no warning
(60_exceptions.md R313, R316). -/
def statusError (st : Status) (code : Byte) : Status :=
  { st with busy := false, done := true, err := true, errcode := code }

/-- The IRQ output, a level: `CTRL.IE & STATUS.DONE` (60_exceptions.md R317). -/
def State.irq (s : State) : Bool := s.ie && s.status.done

end Sys2Proof.Machine
end

