-- ==== Sys2Proof/Machine/Operands.lean ====
section
/-! DEFINITION. Every operand form of 30_encoding.md R102: byte lanes, whole ARG words, 16-bit halves, the RGB word, the
fields of DA and SCRDIM, palette lookups, sprite descriptors and DMEM ranges. All are read from the snapshot (R103). -/

namespace Sys2Proof.Machine

/-- `lane(v, i)` = `v[8*i+7 : 8*i]` (20_memory.md R66, 30_encoding.md R107). -/
def lane (v : Word) (i : Nat) : Byte := v.extractLsb' (8 * i) 8

/-- ARGn as an address or a count: a whole register, unsigned (30_encoding.md R102 (b), (c)). -/
def argNat (k : Snapshot) (n : Fin 8) : Nat := k.args[n].toNat

/-- The low half of a register, `ARGn[15:0]` (30_encoding.md R102 (d)). -/
def lowHalf (v : Word) : Nat := (v.extractLsb' 0 16).toNat

/-- The high half of a register, `ARGn[31:16]` (30_encoding.md R102 (d)). -/
def highHalf (v : Word) : Nat := (v.extractLsb' 16 16).toNat

/-- Four bytes as a register, lane 0 first (20_memory.md R66). -/
def ofLanes (b0 b1 b2 b3 : Byte) : Word := b3 ++ b2 ++ b1 ++ b0

/-- `DA.OFFSET` = `DA[9:0]` (10_state.md R36). -/
def daOffset (d : BitVec 14) : BitVec 10 := d.extractLsb' 0 10

/-- `DA.BUF` = `DA[11:10]` (10_state.md R36). -/
def daBuf (d : BitVec 14) : BitVec 2 := d.extractLsb' 10 2

/-- `DA.PAGE` = `DA[13:12]` (10_state.md R36). -/
def daPage (d : BitVec 14) : BitVec 2 := d.extractLsb' 12 2

/-- A DisplayAddress from its fields (10_state.md R36). -/
def daOf (page buf : BitVec 2) (offset : BitVec 10) : BitVec 14 := page ++ buf ++ offset

/-- `r12()` = `DA[15:8]` (10_state.md R37). -/
def daR12 (d : BitVec 14) : Byte := (d.setWidth 16).extractLsb' 8 8

/-- `r13()` = `DA[7:0]` (10_state.md R37). -/
def daR13 (d : BitVec 14) : Byte := d.extractLsb' 0 8

/-- `address(d)` (43_memory_block.md R270). -/
def daAddress (d : BitVec 14) : Nat := (daPage d).toNat * 0x4000 + (daOffset d).toNat * 2

/-- `SCRDIM.HDISP`, word columns (10_state.md R39). -/
def scrHdisp (v : BitVec 21) : Nat := (v.extractLsb' 0 8).toNat

/-- `SCRDIM.VDISP`, char rows (10_state.md R39). -/
def scrVdisp (v : BitVec 21) : Nat := (v.extractLsb' 8 8).toNat

/-- `SCRDIM.MRA`, scan lines per char minus 1 (10_state.md R39). -/
def scrMra (v : BitVec 21) : Nat := (v.extractLsb' 16 5).toNat

/-- SCRBYTES (10_state.md R40). -/
def scrBytes (v : BitVec 21) : Nat := 2 * scrHdisp v * scrVdisp v * (scrMra v + 1)

/-- SCRINFO.USE2B (10_state.md R41). -/
def scrUseTwoBanks (v : BitVec 21) : Bool := decide (scrBytes v > 0x4000)

/-- PAL[p] of a palette; p from 0 to 16 (10_state.md R43). -/
def palEntry (pal : Vector PalEntry 17) (p : Nat) : PalEntry := pal[p]?.getD PalEntry.unset

/-- `pfind(i)`: the smallest pen 0 to 15 that is set and holds ink i; the Border entry is never searched
(41_ink_palette.md R175). -/
def pfind (pal : Vector PalEntry 17) (i : Byte) : Option Nat :=
  (List.range 16).find? fun p => (palEntry pal p).valid && ((palEntry pal p).ink.setWidth 8 == i)

/-- `MemRead(a, 1)`: the byte of DMEM at accept (00_scope.md R9). -/
def srcByte (k : Snapshot) (a : Nat) : Byte := memRead k.dmem a

/-- A range of length n > 0 starting at a is in range when a + n <= DMEM_SIZE; a range of length 0 always is
(20_memory.md R72). -/
abbrev rangeOk (cfg : Config) (a n : Nat) : Prop := n = 0 ∨ a + n ≤ cfg.dmemSize.toNat

/-- A sprite descriptor (src, W, H, STRIDE) = (ARG0, ARG2, ARG3, ARG4) (42_sprite_packers.md R220). -/
structure Sprite where
  src : Nat
  w : Nat
  h : Nat
  stride : Nat
deriving DecidableEq, Repr

/-- The sprite descriptor of a command's snapshot (42_sprite_packers.md R220). -/
def spriteOf (k : Snapshot) : Sprite :=
  { src := argNat k 0, w := argNat k 2, h := argNat k 3, stride := argNat k 4 }

/-- `S(r, c)`, byte c of row r of the sprite (42_sprite_packers.md R220). -/
def spriteByte (k : Snapshot) (sp : Sprite) (r c : Nat) : Byte := srcByte k (sp.src + r * sp.stride + c)

/-- The length of a sprite's source range (42_sprite_packers.md R221). -/
def spriteLen (sp : Sprite) : Nat := if sp.w = 0 ∨ sp.h = 0 then 0 else (sp.h - 1) * sp.stride + sp.w

end Sys2Proof.Machine
end

