-- ==== Sys2Proof/Machine/Ops.lean ====
section
/-! DEFINITION. The shared operations: accepting a command, committing a successful one, recording an error (this block's
form of taking an exception: there is no trap and nothing to return from, 60_exceptions.md R319, R320), completing a
command, and resetting the registers. -/

namespace Sys2Proof.Machine

/-- The writes and warnings a command schedules (00_scope.md R9, 30_encoding.md R104). What a command does not name stays
as it was (10_state.md R34). -/
structure Effects where
  /-- RES0, if the command names it. -/
  res0 : Option Word := none
  /-- RES1, if the command names it. -/
  res1 : Option Word := none
  /-- DA, if the command names it. -/
  da : Option (BitVec 14) := none
  /-- DMEM writes, in the order scheduled. -/
  dmem : List Host.Cell := []
  /-- Every byte of PMEM is first written 0 (43_memory_block.md R276). -/
  clearPmem : Bool := false
  /-- PMEM writes, in the order scheduled, after the clearing. -/
  pmem : List Host.Cell := []
  /-- STATUS.PAGEMASK and STATUS.MEMKIND, if the command is MEMBLK. -/
  memblk : Option (BitVec 4 × BitVec 2) := none
  /-- The warnings reached. -/
  warnings : Warnings := noWarnings
  /-- How many free values the command consumed (log entry 6). -/
  freeUsed : Nat := 0
deriving DecidableEq, Repr

/-- How a command's pseudocode ends: at a `raise`, or at its end with what it scheduled (00_scope.md R9). -/
inductive CmdOutcome
  | raise (e : CmdError)
  | commit (fx : Effects)
deriving DecidableEq, Repr

/-- The operand snapshot (10_state.md R46). -/
def takeSnapshot (s : State) : Snapshot :=
  { cmd := s.cmd, args := s.args, da := s.da, scrdim := s.scrdim, pal := s.pal, dmem := s.dmem, pmem := s.pmem }

/-- Accept of a command word v: CMD stored, the snapshot taken, BUSY and `pending` set (30_encoding.md R103). -/
def acceptCommand (s : State) (v : Word) : State :=
  { s with
    cmd := v
    status := { s.status with busy := true }
    pending := true
    snap := takeSnapshot { s with cmd := v } }

/-- Commit of a successful command: all it scheduled takes effect together, with the completion fields; the snapshot is
discarded (30_encoding.md R104, R105; 60_exceptions.md R316; 10_state.md R46). -/
def commitCommand (s : State) (fx : Effects) : State :=
  { s with
    status := statusSuccess s.status fx.warnings fx.memblk
    res0 := fx.res0.getD s.res0
    res1 := fx.res1.getD s.res1
    da := fx.da.getD s.da
    dmem := memWriteAll s.dmem fx.dmem
    pmem := memWriteAll (if fx.clearPmem then [] else s.pmem) fx.pmem
    pending := false
    snap := Snapshot.discarded
    freeCount := s.freeCount + fx.freeUsed }

/-- Error recording, the one operation every error goes through: ERRCODE, ERR, ERRINFO0 to 3, BUSY and DONE, and nothing
else of the architectural state (60_exceptions.md R315, R316); the snapshot is discarded (10_state.md R46). -/
def recordError (s : State) (e : CmdError) : State :=
  { s with
    status := statusError s.status (errorCode e)
    errinfo := errorInfo e
    pending := false
    snap := Snapshot.discarded }

/-- Completion of the pending command in one atomic transition (30_encoding.md R104, R105). -/
def completeCommand (s : State) (o : CmdOutcome) : State :=
  match o with
  | .raise e => recordError s e
  | .commit fx => commitCommand s fx

/-- Every register and the hidden state at their reset values, memories untouched (70_reset_and_hazards.md R350, R352).
The model's own fields are kept: the parameters, the moves still to come, the host's last read value and the count of free
values are not the block's registers. -/
def resetRegisters (s : State) : State :=
  { State.resetWith s.cfg s.dmem s.pmem with
    schedule := s.schedule
    rdata := s.rdata
    freeCount := s.freeCount }

/-- Hardware reset with the memories' contents after it as arguments (70_reset_and_hazards.md R350, R351). -/
def hardReset (s : State) (dmem pmem : List Host.Cell) : State :=
  resetRegisters
    { s with dmem := memOfCells s.cfg.dmemSize.toNat dmem, pmem := memOfCells pmemSize pmem }

end Sys2Proof.Machine
end

