-- ==== Sys2Proof/Machine/Control.lean ====
section
/-! DEFINITION. The control command (44_control.md): NOP, which only completes. There is no control transfer, no system
command and no load or store with an addressing mode (R301 to R303). -/

namespace Sys2Proof.Machine

/-- NOP (44_control.md R300). -/
def runNop : CmdOutcome := .commit {}

/-- The meaning of NOP (44_control.md R300). -/
def execNop (s : State) : StepOutcome := .next (completeCommand s runNop)

end Sys2Proof.Machine
end

