-- ==== Sys2Proof/Machine/PixelCodec.lean ====
section
/-! DEFINITION. The pixel codec commands (40_pixel_codec.md): the bit maps and pure functions of its section 1, then one
meaning per command: ENC0, DEC0, ENC1, DEC1, ENC2, DEC2, ENC3, DEC3, MIX03, LIMIT, PENC, PDEC. -/

namespace Sys2Proof.Machine

/-- Bit `src` of a byte moved to bit `dst`: `(p[src] << dst)` of the spec's formulas. -/
def moveBit (p : Byte) (src dst : Nat) : Byte := (BitVec.ofBool (p.getLsbD src)).setWidth 8 <<< dst

/-- Pixels per byte (00_scope.md R10). -/
def ppb : Mode → Nat
  | .m0 => 2
  | .m1 => 4
  | .m2 => 8
  | .m3 => 2

/-- `enc0(p0, p1)` (40_pixel_codec.md R121). -/
def enc0 (p0 p1 : Byte) : Byte :=
  moveBit p0 0 7 ||| moveBit p1 0 6 ||| moveBit p0 2 5 ||| moveBit p1 2 4 ||| moveBit p0 1 3 ||| moveBit p1 1 2 |||
    moveBit p0 3 1 ||| moveBit p1 3 0

/-- `dec0(b)`, the pens of pixel 0 and pixel 1 (40_pixel_codec.md R122). -/
def dec0 (b : Byte) : Byte × Byte :=
  (moveBit b 7 0 ||| moveBit b 3 1 ||| moveBit b 5 2 ||| moveBit b 1 3,
   moveBit b 6 0 ||| moveBit b 2 1 ||| moveBit b 4 2 ||| moveBit b 0 3)

/-- A pen above 3 is forced to 0 in modes 1 and 2, with the warning W_CLAMP (40_pixel_codec.md R123, R124). -/
def penClamps (p : Byte) : Bool := decide (p.toNat > 3)

/-- `clamp1(p)` (40_pixel_codec.md R123). -/
def clamp1 (p : Byte) : Byte := if penClamps p then 0 else p

/-- `enc1(q0, q1, q2, q3)` for pens 0 to 3: pen bit 0 of pixel k at bit 7 - k, pen bit 1 at bit 3 - k
(40_pixel_codec.md R123). -/
def enc1 (q0 q1 q2 q3 : Byte) : Byte :=
  moveBit q0 0 7 ||| moveBit q0 1 3 ||| moveBit q1 0 6 ||| moveBit q1 1 2 ||| moveBit q2 0 5 ||| moveBit q2 1 1 |||
    moveBit q3 0 4 ||| moveBit q3 1 0

/-- The pen of pixel k of a mode-1 byte (40_pixel_codec.md R123). -/
def dec1Pen (b : Byte) (k : Nat) : Byte := moveBit b (7 - k) 0 ||| moveBit b (3 - k) 1

/-- `bit2(p)`: pens 2 and 3 set the bit, pens above 3 clear it (40_pixel_codec.md R124). -/
def bit2 (p : Byte) : Byte := if p = 0 then 0 else if penClamps p then 0 else 1

/-- `enc2` of eight pens, pixel k at bit 7 - k (40_pixel_codec.md R124). -/
def enc2 (p : Nat → Byte) : Byte :=
  bit2 (p 0) <<< 7 ||| bit2 (p 1) <<< 6 ||| bit2 (p 2) <<< 5 ||| bit2 (p 3) <<< 4 ||| bit2 (p 4) <<< 3 |||
    bit2 (p 5) <<< 2 ||| bit2 (p 6) <<< 1 ||| bit2 (p 7) <<< 0

/-- The pen of pixel k of a mode-2 byte (40_pixel_codec.md R124). -/
def dec2Pen (b : Byte) (k : Nat) : Byte := moveBit b (7 - k) 0

/-- `enc3(p0, p1)` = `enc0(p0, p1)` (40_pixel_codec.md R125). -/
def enc3 (p0 p1 : Byte) : Byte := enc0 p0 p1

/-- `dec3(b)`: the mode-0 pens modulo 4 (40_pixel_codec.md R125). -/
def dec3 (b : Byte) : Byte × Byte := ((dec0 b).1 &&& 3, (dec0 b).2 &&& 3)

/-- `mix03(p0, p3)`, the fixed 16-entry table (40_pixel_codec.md R126), for inputs 0 to 3. -/
def mix03 (p0 p3 : Nat) : Byte :=
  (([[0, 5, 6, 7], [8, 1, 10, 11], [12, 13, 2, 15], [4, 9, 14, 3]].getD p0 []).getD p3 0 : Byte)

/-- The mask of `limit(mode, ·)` (40_pixel_codec.md R127). -/
def limitMask : Mode → Byte
  | .m0 => 15
  | .m1 => 3
  | .m2 => 1
  | .m3 => 3

/-- `limit(mode, p)`; Border (16) is not special-cased (40_pixel_codec.md R127). -/
def limitPen (mode : Mode) (p : Byte) : Byte := p &&& limitMask mode

/-- The largest pen a mode encodes without an error; modes 1 and 2 clamp instead (40_pixel_codec.md R145). -/
def penRejected (mode : Mode) (p : Byte) : Bool :=
  match mode with
  | .m0 => decide (p.toNat > 15)
  | .m1 => false
  | .m2 => false
  | .m3 => decide (p.toNat > 3)

/-- Whether encoding pen p in a mode reaches `warn(W_CLAMP)` (40_pixel_codec.md R123, R124). -/
def penWarns (mode : Mode) (p : Byte) : Bool :=
  match mode with
  | .m0 => false
  | .m1 => penClamps p
  | .m2 => penClamps p
  | .m3 => false

/-- The byte of one group of ppb(mode) pens, g i being the pen of pixel i (40_pixel_codec.md R145). -/
def encGroup (mode : Mode) (g : Nat → Byte) : Byte :=
  match mode with
  | .m0 => enc0 (g 0) (g 1)
  | .m1 => enc1 (clamp1 (g 0)) (clamp1 (g 1)) (clamp1 (g 2)) (clamp1 (g 3))
  | .m2 => enc2 g
  | .m3 => enc3 (g 0) (g 1)

/-- The pen of pixel i of a screen byte in a mode (40_pixel_codec.md R146). -/
def decPen (mode : Mode) (b : Byte) (i : Nat) : Byte :=
  match mode with
  | .m0 => if i = 0 then (dec0 b).1 else (dec0 b).2
  | .m1 => dec1Pen b i
  | .m2 => dec2Pen b i
  | .m3 => if i = 0 then (dec3 b).1 else (dec3 b).2

/-- A byte as a register value, `zext_32`. -/
def zext32 (b : Byte) : Word := b.setWidth 32

/-- ENC0 (40_pixel_codec.md R135). -/
def runEnc0 (k : Snapshot) : CmdOutcome :=
  let p0 := lane k.args[0] 0
  let p1 := lane k.args[0] 1
  if p0.toNat > 15 then .raise (.badPen 0 p0)
  else if p1.toNat > 15 then .raise (.badPen 1 p1)
  else .commit { res0 := some (zext32 (enc0 p0 p1)) }

/-- DEC0 (40_pixel_codec.md R136). -/
def runDec0 (k : Snapshot) : CmdOutcome :=
  let p := dec0 (lane k.args[0] 0)
  .commit { res0 := some (ofLanes p.1 p.2 0 0) }

/-- ENC1 (40_pixel_codec.md R137). -/
def runEnc1 (k : Snapshot) : CmdOutcome :=
  let p := lane k.args[0]
  .commit
    { res0 := some (zext32 (enc1 (clamp1 (p 0)) (clamp1 (p 1)) (clamp1 (p 2)) (clamp1 (p 3))))
      warnings := { noWarnings with clamp := (List.range 4).any fun i => penClamps (p i) } }

/-- DEC1 (40_pixel_codec.md R138). -/
def runDec1 (k : Snapshot) : CmdOutcome :=
  let p := dec1Pen (lane k.args[0] 0)
  .commit { res0 := some (ofLanes (p 0) (p 1) (p 2) (p 3)) }

/-- The pens of ENC2: lanes of ARG0, then of ARG1 (40_pixel_codec.md R139). -/
def enc2Pen (k : Snapshot) (i : Nat) : Byte := if i < 4 then lane k.args[0] i else lane k.args[1] (i - 4)

/-- ENC2 (40_pixel_codec.md R139). -/
def runEnc2 (k : Snapshot) : CmdOutcome :=
  .commit
    { res0 := some (zext32 (enc2 (enc2Pen k)))
      warnings := { noWarnings with clamp := (List.range 8).any fun i => penClamps (enc2Pen k i) } }

/-- DEC2 (40_pixel_codec.md R140). -/
def runDec2 (k : Snapshot) : CmdOutcome :=
  let p := dec2Pen (lane k.args[0] 0)
  .commit { res0 := some (ofLanes (p 0) (p 1) (p 2) (p 3)), res1 := some (ofLanes (p 4) (p 5) (p 6) (p 7)) }

/-- ENC3 (40_pixel_codec.md R141). -/
def runEnc3 (k : Snapshot) : CmdOutcome :=
  let p0 := lane k.args[0] 0
  let p1 := lane k.args[0] 1
  if p0.toNat > 3 then .raise (.badPen 0 p0)
  else if p1.toNat > 3 then .raise (.badPen 1 p1)
  else .commit { res0 := some (zext32 (enc3 p0 p1)) }

/-- DEC3 (40_pixel_codec.md R142). -/
def runDec3 (k : Snapshot) : CmdOutcome :=
  let p := dec3 (lane k.args[0] 0)
  .commit { res0 := some (ofLanes p.1 p.2 0 0) }

/-- MIX03 (40_pixel_codec.md R143). -/
def runMix03 (k : Snapshot) : CmdOutcome :=
  let p0 := lane k.args[0] 0
  let p3 := lane k.args[0] 1
  if p0.toNat > 3 then .raise (.badPen 0 p0)
  else if p3.toNat > 3 then .raise (.badPen 1 p3)
  else .commit { res0 := some (zext32 (mix03 p0.toNat p3.toNat)) }

/-- LIMIT (40_pixel_codec.md R144). -/
def runLimit (mode : Mode) (k : Snapshot) : CmdOutcome :=
  let p := lane k.args[0] 0
  if p.toNat > 16 then .raise (.badPen 0 p)
  else .commit { res0 := some (zext32 (limitPen mode p)) }

/-- m, the number of bytes PENC writes for n pens (40_pixel_codec.md R145). -/
def pencCount (mode : Mode) (tail : Tail) (n : Nat) : Nat :=
  match tail with
  | .crop => n / ppb mode
  | .pad => (n + ppb mode - 1) / ppb mode

/-- q[i], pen i of the padded sequence of PENC (40_pixel_codec.md R145). -/
def pencPen (k : Snapshot) (i : Nat) : Byte :=
  if i < argNat k 2 then srcByte k (argNat k 0 + i) else lane k.args[3] 0

/-- PENC (40_pixel_codec.md R145). -/
def runPenc (cfg : Config) (mode : Mode) (tail : Tail) (k : Snapshot) : CmdOutcome :=
  let src := argNat k 0
  let dst := argNat k 1
  let n := argNat k 2
  let m := pencCount mode tail n
  if ¬ rangeOk cfg src n then .raise (.badAddr src (src + n) .source)
  else if ¬ rangeOk cfg dst m then .raise (.badAddr dst (dst + m) .destination)
  else
    match (List.range (m * ppb mode)).find? fun i => penRejected mode (pencPen k i) with
    | some i => .raise (.badPen i (pencPen k i))
    | none =>
      .commit
        { res0 := some (BitVec.ofNat 32 m)
          dmem := (List.range m).map fun j => (dst + j, encGroup mode fun i => pencPen k (j * ppb mode + i))
          warnings :=
            { noWarnings with clamp := (List.range (m * ppb mode)).any fun i => penWarns mode (pencPen k i) } }

/-- PDEC (40_pixel_codec.md R146). -/
def runPdec (cfg : Config) (mode : Mode) (k : Snapshot) : CmdOutcome :=
  let src := argNat k 0
  let dst := argNat k 1
  let n := argNat k 2
  let m := n * ppb mode
  if ¬ rangeOk cfg src n then .raise (.badAddr src (src + n) .source)
  else if ¬ rangeOk cfg dst m then .raise (.badAddr dst (dst + m) .destination)
  else
    .commit
      { res0 := some (BitVec.ofNat 32 m)
        dmem := (List.range n).flatMap fun j =>
          (List.range (ppb mode)).map fun i => (dst + j * ppb mode + i, decPen mode (srcByte k (src + j)) i) }

/-- The meaning of ENC0 (40_pixel_codec.md R135). -/
def execEnc0 (s : State) : StepOutcome := .next (completeCommand s (runEnc0 s.snap))

/-- The meaning of DEC0 (40_pixel_codec.md R136). -/
def execDec0 (s : State) : StepOutcome := .next (completeCommand s (runDec0 s.snap))

/-- The meaning of ENC1 (40_pixel_codec.md R137). -/
def execEnc1 (s : State) : StepOutcome := .next (completeCommand s (runEnc1 s.snap))

/-- The meaning of DEC1 (40_pixel_codec.md R138). -/
def execDec1 (s : State) : StepOutcome := .next (completeCommand s (runDec1 s.snap))

/-- The meaning of ENC2 (40_pixel_codec.md R139). -/
def execEnc2 (s : State) : StepOutcome := .next (completeCommand s (runEnc2 s.snap))

/-- The meaning of DEC2 (40_pixel_codec.md R140). -/
def execDec2 (s : State) : StepOutcome := .next (completeCommand s (runDec2 s.snap))

/-- The meaning of ENC3 (40_pixel_codec.md R141). -/
def execEnc3 (s : State) : StepOutcome := .next (completeCommand s (runEnc3 s.snap))

/-- The meaning of DEC3 (40_pixel_codec.md R142). -/
def execDec3 (s : State) : StepOutcome := .next (completeCommand s (runDec3 s.snap))

/-- The meaning of MIX03 (40_pixel_codec.md R143). -/
def execMix03 (s : State) : StepOutcome := .next (completeCommand s (runMix03 s.snap))

/-- The meaning of LIMIT (40_pixel_codec.md R144). -/
def execLimit (mode : Mode) (s : State) : StepOutcome := .next (completeCommand s (runLimit mode s.snap))

/-- The meaning of PENC (40_pixel_codec.md R145). -/
def execPenc (mode : Mode) (tail : Tail) (s : State) : StepOutcome :=
  .next (completeCommand s (runPenc s.cfg mode tail s.snap))

/-- The meaning of PDEC (40_pixel_codec.md R146). -/
def execPdec (mode : Mode) (s : State) : StepOutcome := .next (completeCommand s (runPdec s.cfg mode s.snap))

end Sys2Proof.Machine
end

