-- ==== Sys2Proof/Machine/InkPalette.lean ====
section
/-! DEFINITION. The ink quantizer and palette commands (41_ink_palette.md): RGB2INK, INK2RGB, INK2GA, PGET, PFIND, RGBQ,
I2P, P2I. The two ink tables are the parameters `INK_RGB` and `INK_GA`. -/

namespace Sys2Proof.Machine

/-- `INK_RGB[i]` for an ink i from 0 to 26 (41_ink_palette.md R170); every lookup above 26 is an error first (R171). -/
def inkRgb (cfg : Config) (i : Nat) : Rgb := cfg.inkRgb[i]?.getD ⟨0, 0, 0⟩

/-- `INK_GA[i]` for an ink i from 0 to 26 (41_ink_palette.md R170). -/
def inkGa (cfg : Config) (i : Nat) : Byte := cfg.inkGa[i]?.getD 0

/-- `sq(x, y)` (41_ink_palette.md R172). -/
def sqDiff (x y : Byte) : Nat := (max x.toNat y.toNat - min x.toNat y.toNat) ^ 2

/-- `dist(i)`: the squared distance of a colour to ink i, exact (41_ink_palette.md R172, R173). -/
def inkDist (cfg : Config) (c : Rgb) (i : Nat) : Nat :=
  sqDiff c.r (inkRgb cfg i).r + sqDiff c.g (inkRgb cfg i).g + sqDiff c.b (inkRgb cfg i).b

/-- `nearest(r, g, b)`: the first ink at the least distance, and that distance (41_ink_palette.md R172). -/
def nearest (cfg : Config) (c : Rgb) : Nat × Nat :=
  (List.range' 1 26).foldl (fun best i => if inkDist cfg c i < best.2 then (i, inkDist cfg c i) else best)
    (0, inkDist cfg c 0)

/-- `{0x00, R, G, B}`, a colour as a register value (41_ink_palette.md R181). -/
def rgbWord (c : Rgb) : Word := ofLanes c.b c.g c.r 0

/-- The RGB word of an ARG register: R in bits 23:16, G in 15:8, B in 7:0 (41_ink_palette.md R180). -/
def rgbOfWord (w : Word) : Rgb := { r := lane w 2, g := lane w 1, b := lane w 0 }

/-- RGB2INK (41_ink_palette.md R180). -/
def runRgb2ink (cfg : Config) (k : Snapshot) : CmdOutcome :=
  let best := nearest cfg (rgbOfWord k.args[0])
  .commit { res0 := some (BitVec.ofNat 32 best.1), res1 := some (BitVec.ofNat 32 best.2) }

/-- INK2RGB (41_ink_palette.md R181). -/
def runInk2rgb (cfg : Config) (k : Snapshot) : CmdOutcome :=
  let i := lane k.args[0] 0
  if i.toNat > 26 then .raise (.badInk 0 i)
  else .commit { res0 := some (rgbWord (inkRgb cfg i.toNat)) }

/-- INK2GA (41_ink_palette.md R182). -/
def runInk2ga (cfg : Config) (k : Snapshot) : CmdOutcome :=
  let i := lane k.args[0] 0
  if i.toNat > 26 then .raise (.badInk 0 i)
  else .commit { res0 := some (zext32 (inkGa cfg i.toNat)) }

/-- The error of reading pen p of the palette, if any: BAD_PEN before PEN_UNSET (41_ink_palette.md R174, R183, R187;
60_exceptions.md R314). -/
def pgetError (pal : Vector PalEntry 17) (index : Nat) (p : Byte) : Option CmdError :=
  if p.toNat > 16 then some (.badPen index p)
  else if (palEntry pal p.toNat).valid = false then some (.penUnset index p)
  else none

/-- `pget(p)` of a set pen (41_ink_palette.md R174). -/
def pgetInk (pal : Vector PalEntry 17) (p : Byte) : Byte := (palEntry pal p.toNat).ink.setWidth 8

/-- PGET (41_ink_palette.md R183). -/
def runPget (k : Snapshot) : CmdOutcome :=
  let p := lane k.args[0] 0
  match pgetError k.pal 0 p with
  | some e => .raise e
  | none => .commit { res0 := some (zext32 (pgetInk k.pal p)) }

/-- PFIND (41_ink_palette.md R184). -/
def runPfind (k : Snapshot) : CmdOutcome :=
  let i := lane k.args[0] 0
  if i.toNat > 31 then .raise (.badInk 0 i)
  else
    match pfind k.pal i with
    | some p => .commit { res0 := some (BitVec.ofNat 32 p), res1 := some 1 }
    | none => .commit { res0 := some 0, res1 := some 0 }

/-- Colour j of RGBQ's source: bytes R, G, B in increasing address order (41_ink_palette.md R185, 20_memory.md R67). -/
def rgbqColour (k : Snapshot) (j : Nat) : Rgb :=
  let a := argNat k 0 + 3 * j
  { r := srcByte k a, g := srcByte k (a + 1), b := srcByte k (a + 2) }

/-- RGBQ (41_ink_palette.md R185). -/
def runRgbq (cfg : Config) (k : Snapshot) : CmdOutcome :=
  let src := argNat k 0
  let dst := argNat k 1
  let n := argNat k 2
  if ¬ rangeOk cfg src (3 * n) then .raise (.badAddr src (src + 3 * n) .source)
  else if ¬ rangeOk cfg dst n then .raise (.badAddr dst (dst + n) .destination)
  else
    .commit
      { res0 := some (BitVec.ofNat 32 n)
        dmem := (List.range n).map fun j => (dst + j, BitVec.ofNat 8 (nearest cfg (rgbqColour k j)).1) }

/-- The error of element j of I2P, if any: BAD_INK before INK_NOT_IN_PALETTE (41_ink_palette.md R186). -/
def i2pError (k : Snapshot) (j : Nat) : Option CmdError :=
  let i := srcByte k (argNat k 0 + j)
  if i.toNat > 31 then some (.badInk j i)
  else if pfind k.pal i = none then some (.inkNotInPalette j i)
  else none

/-- I2P (41_ink_palette.md R186). -/
def runI2p (cfg : Config) (k : Snapshot) : CmdOutcome :=
  let src := argNat k 0
  let dst := argNat k 1
  let n := argNat k 2
  if ¬ rangeOk cfg src n then .raise (.badAddr src (src + n) .source)
  else if ¬ rangeOk cfg dst n then .raise (.badAddr dst (dst + n) .destination)
  else
    match (List.range n).findSome? (i2pError k) with
    | some e => .raise e
    | none =>
      .commit
        { res0 := some (BitVec.ofNat 32 n)
          dmem := (List.range n).map fun j =>
            (dst + j, BitVec.ofNat 8 ((pfind k.pal (srcByte k (src + j))).getD 0)) }

/-- P2I (41_ink_palette.md R187). -/
def runP2i (cfg : Config) (k : Snapshot) : CmdOutcome :=
  let src := argNat k 0
  let dst := argNat k 1
  let n := argNat k 2
  if ¬ rangeOk cfg src n then .raise (.badAddr src (src + n) .source)
  else if ¬ rangeOk cfg dst n then .raise (.badAddr dst (dst + n) .destination)
  else
    match (List.range n).findSome? fun j => pgetError k.pal j (srcByte k (src + j)) with
    | some e => .raise e
    | none =>
      .commit
        { res0 := some (BitVec.ofNat 32 n)
          dmem := (List.range n).map fun j => (dst + j, pgetInk k.pal (srcByte k (src + j))) }

/-- The meaning of RGB2INK (41_ink_palette.md R180). -/
def execRgb2ink (s : State) : StepOutcome := .next (completeCommand s (runRgb2ink s.cfg s.snap))

/-- The meaning of INK2RGB (41_ink_palette.md R181). -/
def execInk2rgb (s : State) : StepOutcome := .next (completeCommand s (runInk2rgb s.cfg s.snap))

/-- The meaning of INK2GA (41_ink_palette.md R182). -/
def execInk2ga (s : State) : StepOutcome := .next (completeCommand s (runInk2ga s.cfg s.snap))

/-- The meaning of PGET (41_ink_palette.md R183). -/
def execPget (s : State) : StepOutcome := .next (completeCommand s (runPget s.snap))

/-- The meaning of PFIND (41_ink_palette.md R184). -/
def execPfind (s : State) : StepOutcome := .next (completeCommand s (runPfind s.snap))

/-- The meaning of RGBQ (41_ink_palette.md R185). -/
def execRgbq (s : State) : StepOutcome := .next (completeCommand s (runRgbq s.cfg s.snap))

/-- The meaning of I2P (41_ink_palette.md R186). -/
def execI2p (s : State) : StepOutcome := .next (completeCommand s (runI2p s.cfg s.snap))

/-- The meaning of P2I (41_ink_palette.md R187). -/
def execP2i (s : State) : StepOutcome := .next (completeCommand s (runP2i s.cfg s.snap))

end Sys2Proof.Machine
end

