-- ==== Sys2Proof/Machine/SpritePackers.lean ====
section
/-! DEFINITION. The sprite linearizer, the gray-code reorderers and the tile extractor (42_sprite_packers.md): SPRLIN,
SPRGRAY, SPRUNGRAY, SPRZZ, SPRLRL, TILES. -/

namespace Sys2Proof.Machine

/-- The table G, GRAYCODE_INDEX_TO_SCREEN_INDEX (42_sprite_packers.md R223). -/
def grayTable : List Nat := [0, 1, 3, 2, 6, 7, 5, 4]

/-- The table GI, SCREEN_INDEX_TO_GRAYCODE_INDEX, the inverse of G (42_sprite_packers.md R223). -/
def grayInverseTable : List Nat := [0, 1, 3, 2, 7, 6, 4, 5]

/-- `8 * (i / 8) + G[i % 8]` (42_sprite_packers.md R226). -/
def grayRow (i : Nat) : Nat := 8 * (i / 8) + grayTable.getD (i % 8) 0

/-- `8 * (i / 8) + GI[i % 8]` (42_sprite_packers.md R227). -/
def ungrayRow (i : Nat) : Nat := 8 * (i / 8) + grayInverseTable.getD (i % 8) 0

/-- The column of byte j of row i when odd rows are byte-reversed (42_sprite_packers.md R224, R228, R229). -/
def zigzagColumn (w i j : Nat) : Nat := if i % 2 = 1 then w - 1 - j else j

/-- The packed copy every row-order command is: source range, destination range, then output row i, byte j taken from the
given row and column of the sprite (42_sprite_packers.md R221, R222, R225). -/
def spriteCopy (cfg : Config) (k : Snapshot) (row : Nat → Nat) (col : Nat → Nat → Nat → Nat) : CmdOutcome :=
  let sp := spriteOf k
  let dst := argNat k 1
  if ¬ rangeOk cfg sp.src (spriteLen sp) then .raise (.badAddr sp.src (sp.src + spriteLen sp) .source)
  else if ¬ rangeOk cfg dst (sp.w * sp.h) then .raise (.badAddr dst (dst + sp.w * sp.h) .destination)
  else
    .commit
      { res0 := some (BitVec.ofNat 32 (sp.w * sp.h))
        dmem := (List.range sp.h).flatMap fun i =>
          (List.range sp.w).map fun j => (dst + i * sp.w + j, spriteByte k sp (row i) (col sp.w i j)) }

/-- The columns of a row in their own order. -/
def plainColumn (_w _i j : Nat) : Nat := j

/-- SPRLIN (42_sprite_packers.md R225). -/
def runSprlin (cfg : Config) (k : Snapshot) : CmdOutcome := spriteCopy cfg k id plainColumn

/-- SPRGRAY (42_sprite_packers.md R226). -/
def runSprgray (cfg : Config) (k : Snapshot) : CmdOutcome :=
  if (spriteOf k).h % 8 ≠ 0 then .raise (.badHeight (spriteOf k).h) else spriteCopy cfg k grayRow plainColumn

/-- SPRUNGRAY (42_sprite_packers.md R227). -/
def runSprungray (cfg : Config) (k : Snapshot) : CmdOutcome :=
  if (spriteOf k).h % 8 ≠ 0 then .raise (.badHeight (spriteOf k).h) else spriteCopy cfg k ungrayRow plainColumn

/-- SPRZZ (42_sprite_packers.md R228). -/
def runSprzz (cfg : Config) (k : Snapshot) : CmdOutcome :=
  if (spriteOf k).h % 8 ≠ 0 then .raise (.badHeight (spriteOf k).h) else spriteCopy cfg k grayRow zigzagColumn

/-- SPRLRL (42_sprite_packers.md R229). -/
def runSprlrl (cfg : Config) (k : Snapshot) : CmdOutcome := spriteCopy cfg k id zigzagColumn

/-- The tile sizes and the grid of TILES (42_sprite_packers.md R232). -/
structure TileGrid where
  /-- tw, tile width in bytes. -/
  tw : Nat
  /-- th, tile height in lines. -/
  th : Nat
  /-- gw, tiles across. -/
  gw : Nat
  /-- gh, tiles down. -/
  gh : Nat
deriving DecidableEq, Repr

/-- A tile dimension: 0 encodes "full" (42_sprite_packers.md R232). -/
def tileSize (field full : Nat) : Nat := if field = 0 then full else field

/-- A grid dimension: 0 encodes "full", as many whole tiles as fit (42_sprite_packers.md R232). -/
def gridSize (field full tile : Nat) : Nat :=
  if field = 0 then (if tile = 0 then 0 else full / tile) else field

/-- The decoded parameters of TILES (42_sprite_packers.md R232). -/
def tileGrid (k : Snapshot) : TileGrid :=
  let sp := spriteOf k
  let tw := tileSize (lowHalf k.args[5]) sp.w
  let th := tileSize (highHalf k.args[5]) sp.h
  { tw := tw, th := th, gw := gridSize (lowHalf k.args[6]) sp.w tw, gh := gridSize (highHalf k.args[6]) sp.h th }

/-- The supported horizontal counters: whether odd walk lines run backwards; none is UNSUPPORTED
(42_sprite_packers.md R230). -/
def hdirFlips : HDir → Option Bool
  | .leftToRight => some false
  | .rightToLeft => none
  | .startFromLeftAndFlip => some true
  | .startFromRightAndFlip => none

/-- The supported vertical counters: whether the lines are taken in gray-code order; none is UNSUPPORTED
(42_sprite_packers.md R231). -/
def vdirGrays : VDir → Option Bool
  | .topToBottom => some false
  | .bottomToTop => none
  | .grayCodeFromTop => some true
  | .flipAtEnd => none

/-- `hc(y, x)` (42_sprite_packers.md R230); the counter is fresh for each tile, so y restarts at 0 in each. -/
def tileColumn (flips : Bool) (tw y x : Nat) : Nat := if flips then zigzagColumn tw y x else x

/-- `vc(y)` (42_sprite_packers.md R231). -/
def tileRow (grays : Bool) (y : Nat) : Nat := if grays then grayRow y else y

/-- The writes of TILES: tiles row-major, each tile's lines packed (42_sprite_packers.md R233). -/
def tileWrites (k : Snapshot) (g : TileGrid) (flips grays : Bool) : List Host.Cell :=
  (List.range g.gh).flatMap fun gy =>
    (List.range g.gw).flatMap fun gx =>
      (List.range g.th).flatMap fun y =>
        (List.range g.tw).map fun x =>
          (argNat k 1 + (gy * g.gw + gx) * g.tw * g.th + y * g.tw + x,
           spriteByte k (spriteOf k) (gy * g.th + tileRow grays y) (gx * g.tw + tileColumn flips g.tw y x))

/-- RES0 of TILES, gw * gh. A product of 2^32 or more, possible only for an empty sprite, has no stated 32-bit value: it is
the free value given (DESIGN CHOICE, log entry 6). -/
def tileCount (g : TileGrid) (free : Word) : Word :=
  if g.gw * g.gh < 2 ^ 32 then BitVec.ofNat 32 (g.gw * g.gh) else free

/-- TILES with supported directions, after the UNSUPPORTED check (42_sprite_packers.md R233). -/
def tilesBody (cfg : Config) (k : Snapshot) (free : Word) (flips grays : Bool) : CmdOutcome :=
  let sp := spriteOf k
  let g := tileGrid k
  let dst := argNat k 1
  let len := g.gw * g.gh * g.tw * g.th
  if g.gw * g.tw > sp.w ∨ g.gh * g.th > sp.h then .raise (.gridMismatch (g.gw * g.tw) (g.gh * g.th) sp.w sp.h)
  else if grays = true ∧ g.th % 8 ≠ 0 then .raise (.badHeight g.th)
  else if ¬ rangeOk cfg sp.src (spriteLen sp) then .raise (.badAddr sp.src (sp.src + spriteLen sp) .source)
  else if ¬ rangeOk cfg dst len then .raise (.badAddr dst (dst + len) .destination)
  else
    .commit
      { res0 := some (tileCount g free)
        res1 := some (sat32 (g.tw * g.th))
        dmem := tileWrites k g flips grays
        freeUsed := if g.gw * g.gh < 2 ^ 32 then 0 else 1 }

/-- TILES (42_sprite_packers.md R233). -/
def runTiles (cfg : Config) (free : Word) (hdir : HDir) (vdir : VDir) (k : Snapshot) : CmdOutcome :=
  match hdirFlips hdir, vdirGrays vdir with
  | some flips, some grays => tilesBody cfg k free flips grays
  | _, _ => .raise (.unsupported k.cmd)

/-- The meaning of SPRLIN (42_sprite_packers.md R225). -/
def execSprlin (s : State) : StepOutcome := .next (completeCommand s (runSprlin s.cfg s.snap))

/-- The meaning of SPRGRAY (42_sprite_packers.md R226). -/
def execSprgray (s : State) : StepOutcome := .next (completeCommand s (runSprgray s.cfg s.snap))

/-- The meaning of SPRUNGRAY (42_sprite_packers.md R227). -/
def execSprungray (s : State) : StepOutcome := .next (completeCommand s (runSprungray s.cfg s.snap))

/-- The meaning of SPRZZ (42_sprite_packers.md R228). -/
def execSprzz (s : State) : StepOutcome := .next (completeCommand s (runSprzz s.cfg s.snap))

/-- The meaning of SPRLRL (42_sprite_packers.md R229). -/
def execSprlrl (s : State) : StepOutcome := .next (completeCommand s (runSprlrl s.cfg s.snap))

/-- The meaning of TILES (42_sprite_packers.md R233). -/
def execTiles (hdir : HDir) (vdir : VDir) (s : State) : StepOutcome :=
  .next (completeCommand s (runTiles s.cfg (Config.freeWord s.freeCount) hdir vdir s.snap))

end Sys2Proof.Machine
end

