-- ==== Sys2Proof/Machine/MemoryBlock.lean ====
section
/-! DEFINITION. DisplayAddress arithmetic and the memory-block packer (43_memory_block.md): DANEXT, MEMBLK. -/

namespace Sys2Proof.Machine

/-- `overscan(d)`: BUF = 0b11 (43_memory_block.md R271). -/
def overscan (d : BitVec 14) : Bool := daBuf d == 3

/-- `next_word(d)` (43_memory_block.md R272). -/
def nextWord (d : BitVec 14) : BitVec 14 :=
  if (daOffset d).toNat < 1023 then daOf (daPage d) (daBuf d) (daOffset d + 1)
  else if overscan d then daOf (daPage d + 1) (daBuf d) 0
  else daOf (daPage d) (daBuf d) 0

/-- DANEXT (43_memory_block.md R274). -/
def runDanext (k : Snapshot) : CmdOutcome := .commit { da := some (nextWord k.da) }

/-- `sw = 2 * hd`, the screen's width in bytes (43_memory_block.md R275). -/
def screenWidth (k : Snapshot) : Nat := 2 * scrHdisp k.scrdim

/-- `sh = vd * (mra + 1)`, the screen's height in lines (43_memory_block.md R275). -/
def screenHeight (k : Snapshot) : Nat := scrVdisp k.scrdim * (scrMra k.scrdim + 1)

/-- The state of MEMBLK's walk: the address, the pages touched, the writes so far (43_memory_block.md R276). -/
structure Walk where
  d : BitVec 14
  pm : BitVec 4
  writes : List Host.Cell
deriving DecidableEq, Repr

/-- The PMEM address of byte b of line l of the word at d (43_memory_block.md R276, 20_memory.md R64). -/
def wordByteAddr (d : BitVec 14) (l b : Nat) : Nat :=
  (daPage d).toNat * 0x4000 + (daOffset d).toNat * 2 + b + l * 0x800

/-- The writes of one word of the walk: scan lines, then low and high byte, sprite bytes only (43_memory_block.md R276). -/
def wordWrites (k : Snapshot) (cr wc : Nat) (d : BitVec 14) : List Host.Cell :=
  let sp := spriteOf k
  let mra := scrMra k.scrdim
  (List.range (mra + 1)).flatMap fun l =>
    (List.range 2).flatMap fun b =>
      let r := cr * (mra + 1) + l
      let c := wc * 2 + b
      if r < sp.h ∧ c < sp.w then [(wordByteAddr d l b, spriteByte k sp r c)] else []

/-- One word of the walk: its page marked, its bytes written, the address advanced (43_memory_block.md R276). -/
def walkWord (k : Snapshot) (cr wc : Nat) (w : Walk) : Walk :=
  { d := nextWord w.d
    pm := w.pm ||| (1 <<< (daPage w.d).toNat)
    writes := w.writes ++ wordWrites k cr wc w.d }

/-- The whole walk: char rows, then word columns (43_memory_block.md R276). -/
def walkScreen (k : Snapshot) : Walk :=
  (List.range (scrVdisp k.scrdim)).foldl
    (fun w cr => (List.range (scrHdisp k.scrdim)).foldl (fun w wc => walkWord k cr wc w) w)
    { d := k.da, pm := 0, writes := [] }

/-- The number of pages in a mask. -/
def pageCount (pm : BitVec 4) : Nat := (List.range 4).countP fun p => pm.getLsbD p

/-- `kind(pm, use2b)`: MEMKIND, and whether W_PAGES is reached (43_memory_block.md R277). -/
def pageKind (pm : BitVec 4) (use2b : Bool) : BitVec 2 × Bool :=
  if pageCount pm = 1 then (1, false)
  else if pageCount pm = 2 ∧ use2b = true then (2, false)
  else (3, true)

/-- MEMBLK (43_memory_block.md R276). -/
def runMemblk (cfg : Config) (crop : Bool) (k : Snapshot) : CmdOutcome :=
  let sp := spriteOf k
  let sw := screenWidth k
  let sh := screenHeight k
  let mra := scrMra k.scrdim
  if mra > 7 then .raise (.badArg mra 7)
  else if crop = false ∧ (sp.w ≠ sw ∨ sp.h ≠ sh) then .raise (.dimMismatch sw sh sp.w sp.h)
  else if ¬ rangeOk cfg sp.src (spriteLen sp) then .raise (.badAddr sp.src (sp.src + spriteLen sp) .source)
  else
    let walk := walkScreen k
    let kind := pageKind walk.pm (scrUseTwoBanks k.scrdim)
    .commit
      { res0 := some (walk.d.setWidth 32)
        clearPmem := true
        pmem := walk.writes
        memblk := some (walk.pm, kind.1)
        warnings :=
          { clamp := false
            dim := crop && (decide (sp.w < sw) || decide (sp.h < sh))
            pages := kind.2 } }

/-- The meaning of DANEXT (43_memory_block.md R274). -/
def execDanext (s : State) : StepOutcome := .next (completeCommand s (runDanext s.snap))

/-- The meaning of MEMBLK (43_memory_block.md R276). -/
def execMemblk (crop : Bool) (s : State) : StepOutcome := .next (completeCommand s (runMemblk s.cfg crop s.snap))

end Sys2Proof.Machine
end

