-- ==== Sys2Proof/Machine/Dispatch.lean ====
section
/-! DEFINITION. One arm per command, each a direct call of its meaning (30_encoding.md R98, R104). -/

namespace Sys2Proof.Machine

def exec (i : Instr) (s : State) : Host.Outcome State Fault Refusal :=
  match i with
  | .nop => Sys2Proof.Machine.execNop s
  | .enc0 => Sys2Proof.Machine.execEnc0 s
  | .dec0 => Sys2Proof.Machine.execDec0 s
  | .enc1 => Sys2Proof.Machine.execEnc1 s
  | .dec1 => Sys2Proof.Machine.execDec1 s
  | .enc2 => Sys2Proof.Machine.execEnc2 s
  | .dec2 => Sys2Proof.Machine.execDec2 s
  | .enc3 => Sys2Proof.Machine.execEnc3 s
  | .dec3 => Sys2Proof.Machine.execDec3 s
  | .mix03 => Sys2Proof.Machine.execMix03 s
  | .limit mode => Sys2Proof.Machine.execLimit mode s
  | .rgb2ink => Sys2Proof.Machine.execRgb2ink s
  | .ink2rgb => Sys2Proof.Machine.execInk2rgb s
  | .ink2ga => Sys2Proof.Machine.execInk2ga s
  | .pget => Sys2Proof.Machine.execPget s
  | .pfind => Sys2Proof.Machine.execPfind s
  | .danext => Sys2Proof.Machine.execDanext s
  | .rgbq => Sys2Proof.Machine.execRgbq s
  | .i2p => Sys2Proof.Machine.execI2p s
  | .p2i => Sys2Proof.Machine.execP2i s
  | .penc mode tail => Sys2Proof.Machine.execPenc mode tail s
  | .pdec mode => Sys2Proof.Machine.execPdec mode s
  | .sprlin => Sys2Proof.Machine.execSprlin s
  | .sprgray => Sys2Proof.Machine.execSprgray s
  | .sprungray => Sys2Proof.Machine.execSprungray s
  | .sprzz => Sys2Proof.Machine.execSprzz s
  | .sprlrl => Sys2Proof.Machine.execSprlrl s
  | .tiles hdir vdir => Sys2Proof.Machine.execTiles hdir vdir s
  | .memblk crop => Sys2Proof.Machine.execMemblk crop s

end Sys2Proof.Machine
end

