-- ==== Sys2Proof/Machine/Registers.lean ====
section
/-! DEFINITION. The register map and the host's register accesses (10_state.md R21 to R45, 70_reset_and_hazards.md R352,
R356). -/

namespace Sys2Proof.Machine

/-- The registers of the map (10_state.md R21); `reserved` is every unassigned offset (R45). -/
inductive Reg
  | id
  | ctrl
  | status
  | cmd
  | arg (n : Fin 8)
  | res0
  | res1
  | errinfo (n : Fin 4)
  | da
  | daaddr
  | scrdim
  | scrbytes
  | scrinfo
  | dmemsz
  | pal (p : Fin 17)
  | reserved
deriving DecidableEq, Repr

/-- The register at a byte offset of REG (10_state.md R21). -/
def regAt (offset : Nat) : Reg :=
  if offset = 0x00 then .id
  else if offset = 0x04 then .ctrl
  else if offset = 0x08 then .status
  else if offset = 0x0C then .cmd
  else if offset < 0x30 then .arg (Fin.ofNat 8 ((offset - 0x10) / 4))
  else if offset = 0x30 then .res0
  else if offset = 0x34 then .res1
  else if offset < 0x48 then .errinfo (Fin.ofNat 4 ((offset - 0x38) / 4))
  else if offset = 0x48 then .da
  else if offset = 0x4C then .daaddr
  else if offset = 0x50 then .scrdim
  else if offset = 0x54 then .scrbytes
  else if offset = 0x58 then .scrinfo
  else if offset = 0x5C then .dmemsz
  else if offset < 0x80 then .reserved
  else if offset < 0xC4 then .pal (Fin.ofNat 17 ((offset - 0x80) / 4))
  else .reserved

/-- The byte offset of a register (10_state.md R21); of the reserved ones, the first. -/
def regOffset : Reg → Nat
  | .id => 0x00
  | .ctrl => 0x04
  | .status => 0x08
  | .cmd => 0x0C
  | .arg n => 0x10 + 4 * n.val
  | .res0 => 0x30
  | .res1 => 0x34
  | .errinfo n => 0x38 + 4 * n.val
  | .da => 0x48
  | .daaddr => 0x4C
  | .scrdim => 0x50
  | .scrbytes => 0x54
  | .scrinfo => 0x58
  | .dmemsz => 0x5C
  | .pal p => 0x80 + 4 * p.val
  | .reserved => 0x60

/-- A PAL register as the host reads it (10_state.md R43). -/
def palWord (e : PalEntry) : Word := bitField e.valid 7 ||| e.ink.setWidth 32

/-- What a host write stores in a PAL register: bits 7 and 4:0 (10_state.md R43). -/
def palOfWord (v : Word) : PalEntry := { valid := v.getLsbD 7, ink := v.extractLsb' 0 5 }

/-- The value of a register (10_state.md R21 to R45). Reads have no side effect (20_memory.md R71). -/
def readReg (s : State) : Reg → Word
  | .id => 0x43504358
  | .ctrl => bitField s.ie 0
  | .status => statusWord s.status
  | .cmd => s.cmd
  | .arg n => s.args[n]
  | .res0 => s.res0
  | .res1 => s.res1
  | .errinfo n => s.errinfo[n]
  | .da => s.da.setWidth 32
  | .daaddr => BitVec.ofNat 32 (daAddress s.da)
  | .scrdim => s.scrdim.setWidth 32
  | .scrbytes => BitVec.ofNat 32 (scrBytes s.scrdim)
  | .scrinfo => bitField (scrUseTwoBanks s.scrdim) 0
  | .dmemsz => s.cfg.dmemSize
  | .pal p => palWord s.pal[p]
  | .reserved => 0

/-- A host write while no command is pending (10_state.md R21 to R45): CTRL with SRST is a soft reset whatever bit 0 holds
(70_reset_and_hazards.md R352), CMD accepts a command (30_encoding.md R103), the rest store the bits their rules name;
read-only and reserved registers ignore it. -/
def writeRegIdle (s : State) (r : Reg) (v : Word) : State :=
  match r with
  | .ctrl => if v.getLsbD 1 then resetRegisters s else { s with ie := v.getLsbD 0 }
  | .status => { s with status := statusClear s.status v }
  | .cmd => acceptCommand s v
  | .arg n => { s with args := s.args.set n v }
  | .da => { s with da := v.extractLsb' 0 14 }
  | .scrdim => { s with scrdim := v.extractLsb' 0 21 }
  | .pal p => { s with pal := s.pal.set p (palOfWord v) }
  | .id => s
  | .res0 => s
  | .res1 => s
  | .errinfo _ => s
  | .daaddr => s
  | .scrbytes => s
  | .scrinfo => s
  | .dmemsz => s
  | .reserved => s

/-- A host write in the pending window (70_reset_and_hazards.md R352, R356, 30_encoding.md R106): CTRL stores IE, and an
SRST request sets OVR instead of resetting; STATUS clears its W1C bits; every other offset is ignored and sets OVR. -/
def writeRegBusy (s : State) (r : Reg) (v : Word) : State :=
  match r with
  | .ctrl =>
    { s with
      ie := v.getLsbD 0
      status := if v.getLsbD 1 then statusRefused s.status else s.status }
  | .status => { s with status := statusClear s.status v }
  | _ => { s with status := statusRefused s.status }

/-- A host register write; the pending window is STATUS.BUSY = 1 (70_reset_and_hazards.md R355, R356). -/
def writeReg (s : State) (r : Reg) (v : Word) : State :=
  if s.status.busy then writeRegBusy s r v else writeRegIdle s r v

end Sys2Proof.Machine
end

