-- ==== Sys2Proof/Machine/Engine.lean ====
section
/-! DEFINITION. What each move does: the engine's step, the host's accesses, the hardware reset (00_scope.md R12). -/

namespace Sys2Proof.Machine

/-- The engine's one step: it runs the command the snapshot's CMD selects; a word that is not legal raises ILLEGAL_OPCODE
as the command's first action (30_encoding.md R97, R104). -/
def engineStep (s : State) : StepOutcome :=
  match decode s.snap.cmd with
  | .instr i => exec i s
  | .illegal _ => .next (completeCommand s (.raise (.illegalOpcode s.snap.cmd)))

/-- The engine's turn: a step only while a command is pending, else nothing (00_scope.md R12, 60_exceptions.md R327). -/
def engineTurn (s : State) : StepOutcome := if s.pending then engineStep s else .next s

/-- The form of a REG access: 32 bits at a multiple of 4 (20_memory.md R68), inside the space (R61). -/
def regAccess (offset width : Nat) (k : StepOutcome) : StepOutcome :=
  if width ≠ 4 ∨ offset % 4 ≠ 0 then .refused (.regAccessForm offset width)
  else if offset ≥ 0x100 then .fault (.outsideReg offset)
  else k

/-- The number of bytes of a memory space (20_memory.md R62, R63). -/
def spaceSize (s : State) : MemSpace → Nat
  | .dmem => s.cfg.dmemSize.toNat
  | .pmem => pmemSize

/-- The fault of an address that does not exist (20_memory.md R62, R63; log entry 8). -/
def outsideSpace : MemSpace → Nat → Fault
  | .dmem, a => .outsideDmem a
  | .pmem, a => .outsidePmem a

/-- A host byte access: refused in the pending window (70_reset_and_hazards.md R357), and only to addresses that exist. -/
def byteAccess (s : State) (space : MemSpace) (a : Nat) (k : StepOutcome) : StepOutcome :=
  if s.status.busy then .refused (.pendingWindowAccess space a)
  else if a ≥ spaceSize s space then .fault (outsideSpace space a)
  else k

/-- The byte at an address of a memory space (20_memory.md R69). -/
def readByte (s : State) (space : MemSpace) (a : Nat) : Byte :=
  match space with
  | .dmem => memRead s.dmem a
  | .pmem => memRead s.pmem a

/-- A byte stored at an address of a memory space (20_memory.md R69). -/
def writeByte (s : State) (space : MemSpace) (a : Nat) (b : Byte) : State :=
  match space with
  | .dmem => { s with dmem := memWrite s.dmem a b }
  | .pmem => { s with pmem := memWrite s.pmem a b }

/-- One move of one agent (00_scope.md R12). -/
def runEvent (ev : Event) (s : State) : StepOutcome :=
  match ev with
  | .engine => engineTurn s
  | .regRead offset width => regAccess offset width (.next { s with rdata := readReg s (regAt offset) })
  | .regWrite offset width v => regAccess offset width (.next (writeReg s (regAt offset) v))
  | .byteRead space a => byteAccess s space a (.next { s with rdata := (readByte s space a).setWidth 32 })
  | .byteWrite space a b => byteAccess s space a (.next (writeByte s space a b))
  | .hardReset dmem pmem => .next (hardReset s dmem pmem)

/-- A command word accepted and the engine's turn put first, whatever the host has still to do: the state in which the very
next step runs that word (log entry 2). -/
def withCommandPending (s : State) (v : Word) : State :=
  { acceptCommand s v with schedule := .engine :: s.schedule }

end Sys2Proof.Machine
end

