-- ==== Sys2Proof/Machine/Step.lean ====
section
/-! DEFINITION. One step of the machine: the next move of the schedule, or the engine's turn when no move is left
(00_scope.md R12, 70_reset_and_hazards.md R360; log entry 1). -/

namespace Sys2Proof.Machine

/-- One step. With the schedule empty the engine moves: a pending command completes (70_reset_and_hazards.md R360), an idle
block keeps all its state (60_exceptions.md R327). -/
def step (s : State) : Host.Outcome State Fault Refusal :=
  match s.schedule with
  | [] => engineTurn s
  | ev :: rest => runEvent ev { s with schedule := rest }

/-- The state in which the next step runs the command word w: right after the host's write of w to CMD was accepted
(30_encoding.md R103), the engine to move (log entry 2). -/
def State.withFetchWord (s : State) (nbits w : Nat) : State :=
  withCommandPending s (BitVec.ofNat 32 (w % 2 ^ nbits))

end Sys2Proof.Machine
end

