-- ==== Sys2Proof/Machine/HostAsm.lean ====
section
/-! DEFINITION. The host assembly of 30_encoding.md R108, R109 as the block accesses its statements make, and wide host
memory accesses as sequences of byte accesses (20_memory.md R69). Host variables, labels and branches make no block access
and are outside the block (44_control.md R301). -/

namespace Sys2Proof.Machine

/-- `st REG, v` (30_encoding.md R108). -/
def asmSt (r : Reg) (v : Word) : Event := .regWrite (regOffset r) 4 v

/-- `ld x, REG` (30_encoding.md R108); x is the value the read returns. -/
def asmLd (r : Reg) : Event := .regRead (regOffset r) 4

/-- `stb SPACE[a], b0, b1, ...` (30_encoding.md R108). -/
def asmStb (space : MemSpace) : Nat → List Byte → List Event
  | _, [] => []
  | a, b :: bs => .byteWrite space a b :: asmStb space (a + 1) bs

/-- `ldb x, SPACE[a]` (30_encoding.md R108). -/
def asmLdb (space : MemSpace) (a : Nat) : Event := .byteRead space a

/-- `cmd`: the CMD write, then `poll`, which reads STATUS until BUSY is 0: `busyReads` reads while the command is pending
(LATENCY, any number, 70_reset_and_hazards.md R359), the completion, the read that ends the poll (30_encoding.md R109). -/
def asmCmd (i : Instr) (busyReads : Nat) : List Event :=
  asmSt .cmd (encode i) :: (List.replicate busyReads (asmLd .status) ++ [.engine, asmLd .status])

/-- `clrst`: clears DONE, ERR, OVR and the three warnings (30_encoding.md R109). -/
def asmClrst : Event := asmSt .status 0x0007000E

/-- `setpal p, ink`: pen p set to an ink (30_encoding.md R109). -/
def asmSetpal (p : Fin 17) (ink : BitVec 5) : Event := asmSt (.pal p) (0x80 + ink.setWidth 32)

/-- `unsetpal p` (30_encoding.md R109). -/
def asmUnsetpal (p : Fin 17) : Event := asmSt (.pal p) 0

/-- The n low bytes of a value, least significant first (20_memory.md R69). -/
def littleEndianBytes : Nat → Nat → List Byte
  | 0, _ => []
  | n + 1, value => BitVec.ofNat 8 value :: littleEndianBytes n (value / 256)

/-- The value of bytes in increasing address order, the first least significant (20_memory.md R69). -/
def littleEndian : List Byte → Nat
  | [] => 0
  | b :: bs => b.toNat + 256 * littleEndian bs

/-- A wide host write of n bytes, little-endian, in increasing address order (20_memory.md R69). The list may be
interleaved with other moves: there is no atomicity between the bytes. -/
def wideWrite (space : MemSpace) (a n value : Nat) : List Event := asmStb space a (littleEndianBytes n value)

/-- A wide host read of n bytes in increasing address order (20_memory.md R69). -/
def wideRead (space : MemSpace) (a n : Nat) : List Event := (List.range n).map fun i => asmLdb space (a + i)

/-- A run of moves, each one step of the machine, that collects what the moves marked `true` read: after each of them the
low byte of `rdata`, in the order of the moves. Moves of other agents, marked `false`, may stand anywhere between them
(20_memory.md R69: "no atomicity between the bytes"). The first move that stops stops the run. -/
def runReads : List (Event × Bool) → State → Host.Outcome (State × List Byte) Fault Refusal
  | [], s => .next (s, [])
  | (ev, own) :: moves, s =>
    match step { s with schedule := ev :: s.schedule } with
    | .next t =>
      match runReads moves t with
      | .next (u, bytes) => .next (u, if own then t.rdata.setWidth 8 :: bytes else bytes)
      | .fault r => .fault r
      | .refused r => .refused r
    | .fault r => .fault r
    | .refused r => .refused r

/-- The marked moves of a run are those of one wide read, in its order (20_memory.md R69). -/
def isWideRead (space : MemSpace) (a n : Nat) (moves : List (Event × Bool)) : Bool :=
  (moves.filter fun m => m.2).map (fun m => m.1) == wideRead space a n

/-- The value a wide read returns when its byte accesses are the marked moves of a run: their bytes composed little-endian,
each as it read at its own access (20_memory.md R69). -/
def wideReadValue (moves : List (Event × Bool)) (s : State) : Host.Outcome (State × Nat) Fault Refusal :=
  match runReads moves s with
  | .next (t, bytes) => .next (t, littleEndian bytes)
  | .fault r => .fault r
  | .refused r => .refused r

/-- A wide read of n bytes with no other agent's move between its byte accesses (20_memory.md R69). -/
def wideReadUninterrupted (space : MemSpace) (a n : Nat) (s : State) : Host.Outcome (State × Nat) Fault Refusal :=
  wideReadValue ((wideRead space a n).map fun ev => (ev, true)) s

/-- Where the host's platform sees an offset of a space: `DMEM_BASE` or `PMEM_BASE` plus the offset (20_memory.md R60). -/
def hostByteAddress (cfg : Config) (space : MemSpace) (a : Nat) : Nat :=
  match space with
  | .dmem => cfg.dmemBase + a
  | .pmem => cfg.pmemBase + a

/-- Where the host's platform sees a register: `REG_BASE` plus its offset (20_memory.md R60). -/
def hostRegAddress (cfg : Config) (r : Reg) : Nat := cfg.regBase + regOffset r

end Sys2Proof.Machine
end

