-- ==== Sys2Proof/Safety.lean ====
section
/-! DEFINITION. The invariant of the machine, what a host may do next, and what a safe step is. -/

namespace Sys2Proof.Machine

/-- Whether a move's own access is one the spec gives a meaning to in a state (20_memory.md R61 to R63, R68,
70_reset_and_hazards.md R357). The engine's turn and the reset input always are. -/
def eventAllowed (s : State) : Event → Bool
  | .engine => true
  | .regRead offset width => decide (width = 4) && decide (offset % 4 = 0) && decide (offset < 0x100)
  | .regWrite offset width _ => decide (width = 4) && decide (offset % 4 = 0) && decide (offset < 0x100)
  | .byteRead space a => !s.status.busy && decide (a < spaceSize s space)
  | .byteWrite space a _ => !s.status.busy && decide (a < spaceSize s space)
  | .hardReset _ _ => true

/-- The machine's next move is one the spec gives a meaning to. -/
def moveAllowed (s : State) : Bool :=
  match s.schedule with
  | [] => true
  | ev :: _ => eventAllowed s ev

/-- A step that stops neither with a fault nor with a refusal. -/
def stepSafe (s : State) : Prop := ∃ t, step s = .next t

/-- Whether a page mask and a result kind fit each other: no MEMBLK yet, or a completed one
(10_state.md R31, 43_memory_block.md R277). -/
def kindFits (st : Status) : Bool :=
  (st.memKind == 0 && st.pageMask == 0) || (st.memKind == 1 && pageCount st.pageMask == 1) ||
    (st.memKind == 2 && pageCount st.pageMask == 2) || (st.memKind == 3 && pageCount st.pageMask != 1)

/-- The invariant every step keeps.
The memories are canonical and inside their spaces (R62, R63); BUSY says exactly whether a command is pending (R25, R46);
while one is, the snapshot still equals the registers and memories it was taken from, since the host's writes to them are
refused in the window (R46, R356, R357); while none is, it is discarded (R46); ERRCODE is 0 or a code of R311; PAGEMASK
and MEMKIND fit (R31); the parameters are legal (R6). -/
structure State.Inv (s : State) : Prop where
  cfgWf : s.cfg.wf = true
  dmemWf : memWf s.dmem = true
  dmemWithin : memWithin s.cfg.dmemSize.toNat s.dmem = true
  pmemWf : memWf s.pmem = true
  pmemWithin : memWithin pmemSize s.pmem = true
  busyPending : s.status.busy = s.pending
  snapTaken : s.pending = true → s.snap = takeSnapshot s
  snapDiscarded : s.pending = false → s.snap = Snapshot.discarded
  errcodeKnown : s.status.errcode.toNat ≤ 0x0B
  kindFits : kindFits s.status = true

end Sys2Proof.Machine
end

