-- ==== Sys2Proof/Certificates/Slice0/Obligations.lean ====
section
/-! DEFINITION. The statements for the provers. The first part gives them their vocabulary, written from the spec's rules and
not from the meanings; the second part states. Every statement about `step` reads the next move off the schedule: that the
moves stand there is the model's choice (log entry 1). -/

namespace Sys2Proof.Claims

open Sys2Proof Sys2Proof.Machine

/-- What every successful command does and nothing else: ERRCODE 0, BUSY 0, DONE 1, `pending` 0, the snapshot discarded
(30_encoding.md R104, R105; 60_exceptions.md R316; 10_state.md R46). -/
def succeeded (s : State) : State :=
  { s with
    status := { s.status with busy := false, done := true, errcode := 0 }
    pending := false
    snap := Snapshot.discarded }

/-- What every command that raises an error does and nothing else: ERRCODE, ERR 1, the four ERRINFO registers, BUSY 0,
DONE 1, `pending` 0, the snapshot discarded (60_exceptions.md R315, R316; 10_state.md R46). -/
def failed (s : State) (code : Byte) (i0 i1 i2 i3 : Word) : State :=
  { s with
    status := { s.status with busy := false, done := true, err := true, errcode := code }
    errinfo := #v[i0, i1, i2, i3]
    pending := false
    snap := Snapshot.discarded }

/-- A value saturated to 32 bits (00_scope.md R8). -/
def saturated (v : Nat) : Word := BitVec.ofNat 32 (min v 0xFFFFFFFF)

/-- A DMEM range in range (20_memory.md R72). -/
def inRange (cfg : Config) (a n : Nat) : Prop := n = 0 ∨ a + n ≤ cfg.dmemSize.toNat

/-- BAD_ADDR of a range, `which` being 0 for a source and 1 for a destination (20_memory.md R72, 60_exceptions.md R312). -/
def badAddr (s : State) (a n : Nat) (which : Word) : State :=
  failed s 0x09 (BitVec.ofNat 32 a) (saturated (a + n)) which 0

/-- Every DMEM byte outside the n bytes at dst reads in m as it did in s. -/
def keepsOutside (s : State) (m : Memory) (dst n : Nat) : Prop :=
  ∀ a, ¬ (dst ≤ a ∧ a < dst + n) → memRead m a = memRead s.dmem a

/-- The byte b shows the pens g 0, g 1, … of its pixels in a mode: the bit maps of 40_pixel_codec.md R120 (modes 0 and 3,
R125), R123 (mode 1, pens above 3 forced to 0) and R124 (mode 2, pens 1 to 3 set the bit). -/
def ShowsPens (mode : Mode) (g : Nat → Byte) (b : Byte) : Prop :=
  match mode with
  | .m1 =>
    ∀ k < 4, b.getLsbD (7 - k) = (decide ((g k).toNat ≤ 3) && (g k).getLsbD 0) ∧
      b.getLsbD (3 - k) = (decide ((g k).toNat ≤ 3) && (g k).getLsbD 1)
  | .m2 => ∀ k < 8, b.getLsbD (7 - k) = decide (1 ≤ (g k).toNat ∧ (g k).toNat ≤ 3)
  | _ =>
    b.getLsbD 7 = (g 0).getLsbD 0 ∧ b.getLsbD 6 = (g 1).getLsbD 0 ∧ b.getLsbD 5 = (g 0).getLsbD 2 ∧
      b.getLsbD 4 = (g 1).getLsbD 2 ∧ b.getLsbD 3 = (g 0).getLsbD 1 ∧ b.getLsbD 2 = (g 1).getLsbD 1 ∧
      b.getLsbD 1 = (g 0).getLsbD 3 ∧ b.getLsbD 0 = (g 1).getLsbD 3

/-- The pen of pixel i of the byte b in a mode (40_pixel_codec.md R122, R123, R124, R125). -/
def penShown (mode : Mode) (b : Byte) (i : Nat) : Nat :=
  match mode with
  | .m0 =>
    (b.getLsbD (7 - i)).toNat + 2 * (b.getLsbD (3 - i)).toNat + 4 * (b.getLsbD (5 - i)).toNat +
      8 * (b.getLsbD (1 - i)).toNat
  | .m1 => (b.getLsbD (7 - i)).toNat + 2 * (b.getLsbD (3 - i)).toNat
  | .m2 => (b.getLsbD (7 - i)).toNat
  | .m3 => (b.getLsbD (7 - i)).toNat + 2 * (b.getLsbD (3 - i)).toNat

/-- Pixels per byte (00_scope.md R10). -/
def pixelsPerByte : Mode → Nat
  | .m0 => 2
  | .m1 => 4
  | .m2 => 8
  | .m3 => 2

/-- The command word of an opcode with a MODE, for the commands that have that field (30_encoding.md R90). -/
def modeBits : Mode → Word
  | .m0 => 0x000
  | .m1 => 0x100
  | .m2 => 0x200
  | .m3 => 0x300

/-- The squared distance of two colours, on exact integers (41_ink_palette.md R172, R173). -/
def colourDistance (c e : Rgb) : Int :=
  ((c.r.toNat : Int) - e.r.toNat) ^ 2 + ((c.g.toNat : Int) - e.g.toNat) ^ 2 + ((c.b.toNat : Int) - e.b.toNat) ^ 2

/-- `ink` is the first of the 27 inks at the least distance from c (41_ink_palette.md R172). -/
def IsNearestInk (cfg : Config) (c : Rgb) (ink : Fin 27) : Prop :=
  (∀ j : Fin 27, colourDistance c cfg.inkRgb[ink] ≤ colourDistance c cfg.inkRgb[j]) ∧
    ∀ j : Fin 27, j < ink → colourDistance c cfg.inkRgb[ink] < colourDistance c cfg.inkRgb[j]

/-- Pen p of a palette is set and holds ink i (10_state.md R43). -/
def holdsInk (pal : Vector PalEntry 17) (p : Fin 17) (i : Nat) : Prop := pal[p].valid = true ∧ pal[p].ink.toNat = i

/-- `pfind(i)` is pen p: the smallest of pens 0 to 15 that holds i (41_ink_palette.md R175). -/
def IsFirstPen (pal : Vector PalEntry 17) (i : Nat) (p : Fin 17) : Prop :=
  p.val < 16 ∧ holdsInk pal p i ∧ ∀ q : Fin 17, q < p → ¬ holdsInk pal q i

/-- `pfind(i)` is none: no pen 0 to 15 holds i (41_ink_palette.md R175). -/
def NoPen (pal : Vector PalEntry 17) (i : Nat) : Prop := ∀ p : Fin 17, p.val < 16 → ¬ holdsInk pal p i

/-- `next_word(d)` by the numbers: offset d mod 1024, BUF (d / 1024) mod 4 (43_memory_block.md R272, 10_state.md R36). -/
def wordAfter (d : BitVec 14) : BitVec 14 :=
  if d.toNat % 1024 < 1023 then BitVec.ofNat 14 (d.toNat + 1)
  else if d.toNat / 1024 % 4 = 3 then BitVec.ofNat 14 ((d.toNat + 0x1000 - 1023) % 0x4000)
  else BitVec.ofNat 14 (d.toNat - 1023)

/-- The address n words after d (43_memory_block.md R272). -/
def wordsAfter (d : BitVec 14) : Nat → BitVec 14
  | 0 => d
  | n + 1 => wordAfter (wordsAfter d n)

/-- The byte of a screen word in PMEM: the page and the word offset of d, byte b, line l (43_memory_block.md R276). -/
def screenByteAddr (d : BitVec 14) (l b : Nat) : Nat := d.toNat / 0x1000 * 0x4000 + d.toNat % 1024 * 2 + b + l * 0x800

/-- The gray-code table G (42_sprite_packers.md R223). -/
def gray (i : Nat) : Nat := [0, 1, 3, 2, 6, 7, 5, 4].getD i 0

/-- The inverse table GI (42_sprite_packers.md R223). -/
def ungray (i : Nat) : Nat := [0, 1, 3, 2, 7, 6, 4, 5].getD i 0

/-- The length of a sprite's source range (42_sprite_packers.md R221). -/
def sourceLength (w h stride : Nat) : Nat := if w = 0 ∨ h = 0 then 0 else (h - 1) * stride + w

/-- ENC0 and ENC3: two pens up to a largest one, else BAD_PEN at the first (40_pixel_codec.md R135, R141). -/
def pairEncodeRule (i : Instr) (word : Word) (mode : Mode) (top : Nat) : Prop :=
  decode word = .instr i ∧ ∀ s : State,
    ((lane s.snap.args[0] 0).toNat ≤ top → (lane s.snap.args[0] 1).toNat ≤ top →
      ∃ b : Byte, ShowsPens mode (lane s.snap.args[0]) b ∧
        exec i s = .next { succeeded s with res0 := b.setWidth 32 }) ∧
    ((lane s.snap.args[0] 0).toNat > top →
      exec i s = .next (failed s 0x02 0 ((lane s.snap.args[0] 0).setWidth 32) 0 0)) ∧
    ((lane s.snap.args[0] 0).toNat ≤ top → (lane s.snap.args[0] 1).toNat > top →
      exec i s = .next (failed s 0x02 1 ((lane s.snap.args[0] 1).setWidth 32) 0 0))

/-- A row-order command: the height rule if it has one, the source and destination ranges, then the packed copy with its
row order and its reversal of odd rows (42_sprite_packers.md R220 to R222, R224 to R229). -/
def rowOrderRule (i : Instr) (word : Word) (byEight : Bool) (row : Nat → Nat) (flips : Bool) : Prop :=
  decode word = .instr i ∧ ∀ s : State, ∀ src dst w h stride : Nat,
    src = s.snap.args[0].toNat → dst = s.snap.args[1].toNat → w = s.snap.args[2].toNat → h = s.snap.args[3].toNat →
    stride = s.snap.args[4].toNat →
    ((byEight = true ∧ h % 8 ≠ 0) → exec i s = .next (failed s 0x06 (BitVec.ofNat 32 h) 8 0 0)) ∧
    (¬ (byEight = true ∧ h % 8 ≠ 0) → ¬ inRange s.cfg src (sourceLength w h stride) →
      exec i s = .next (badAddr s src (sourceLength w h stride) 0)) ∧
    (¬ (byEight = true ∧ h % 8 ≠ 0) → inRange s.cfg src (sourceLength w h stride) → ¬ inRange s.cfg dst (w * h) →
      exec i s = .next (badAddr s dst (w * h) 1)) ∧
    (¬ (byEight = true ∧ h % 8 ≠ 0) → inRange s.cfg src (sourceLength w h stride) → inRange s.cfg dst (w * h) →
      memWf s.dmem = true →
      ∃ m : Memory, exec i s = .next { succeeded s with res0 := BitVec.ofNat 32 (w * h), dmem := m } ∧
        (∀ r < h, ∀ c < w, memRead m (dst + r * w + c) =
          memRead s.snap.dmem (src + row r * stride + (if flips = true ∧ r % 2 = 1 then w - 1 - c else c))) ∧
        keepsOutside s m dst (w * h))

end Sys2Proof.Claims

open Sys2Proof Sys2Proof.Machine Sys2Proof.Claims

/-! ### Encoding -/

/-- A word decodes to a command exactly when it is that command's encoding: no bit of an encoding is dropped and no word
has two meanings (30_encoding.md R90, R97, R98). That a TILES word with one of bits 11:8 set decodes to no command is the
model's choice (log entry 11): R98 prints a mask that leaves them free, the words of R97 forbid them. -/
def Obligations.DecodeInvertsEncode : Prop :=
  (∀ i : Instr, i.wellFormed = true) ∧ ∀ (w : Word) (i : Instr), decode w = .instr i ↔ w = encode i

/-- The rows of 30_encoding.md R98 as masks and matches, each mask made from the row's "fields" column: every bit outside OPC
and those fields is fixed at 0 (R97). The mask printed for TILES, 0xFFFF00FF, would leave bits 11:8 free, against R97's
words; here it is 0xFFFF0FFF (the model's choice, log entry 11). The other 28 are as printed. -/
def Sys2Proof.Claims.maskMatch : List (Word × Word) :=
  ([0x00, 0x01, 0x02, 0x03, 0x04, 0x05, 0x06, 0x07, 0x08, 0x09, 0x10, 0x11, 0x12, 0x13, 0x14, 0x20, 0x30, 0x31, 0x32,
    0x40, 0x41, 0x42, 0x43, 0x44].map fun m => ((0xFFFFFFFF : Word), m)) ++
  [(0xFFFFFCFF, 0x0A), (0xFFFFF8FF, 0x33), (0xFFFFFCFF, 0x34), (0xFFFF0FFF, 0x45), (0xFFFFF7FF, 0x50)]

/-- A word is legal exactly when every bit outside OPC and the fields its row names is 0, and an illegal word raises
ILLEGAL_OPCODE with nothing but the error recording (30_encoding.md R97, R98, 92_eei_decisions.md D3; for TILES words with
one of bits 11:8 set this is the model's choice, log entry 11). -/
def Obligations.LegalWordsMatchTheTable : Prop :=
  (∀ w : Word, (∃ i, decode w = .instr i) ↔ ∃ r ∈ maskMatch, w &&& r.1 = r.2) ∧
  ∀ s : State, (¬ ∃ r ∈ maskMatch, s.snap.cmd &&& r.1 = r.2) →
    engineStep s = .next (failed s 0x01 s.snap.cmd 0 0 0)

/-- The unassigned values of OPC, the ranges of 30_encoding.md R99. -/
def Sys2Proof.Claims.unassigned : List Nat :=
  List.range' 0x0B 5 ++ List.range' 0x15 11 ++ List.range' 0x21 15 ++ List.range' 0x35 11 ++ List.range' 0x46 10 ++
    List.range' 0x51 175

/-- 30_encoding.md R99: every opcode in none of the table's rows raises ILLEGAL_OPCODE, whatever the other bits. -/
def Obligations.UnassignedOpcodesAreIllegal : Prop :=
  ∀ s : State, s.snap.cmd.toNat % 256 ∈ unassigned → engineStep s = .next (failed s 0x01 s.snap.cmd 0 0 0)

/-- A step runs the decoded command: with a command pending and the engine to move, step is exec of what the snapshot's
CMD decodes to, the move taken off the schedule (30_encoding.md R104). That the schedule's head is the next move, and that
the engine moves when the schedule is empty, is the model's choice (log entry 1). -/
def Obligations.StepRunsTheDecodedCommand : Prop :=
  ∀ (s : State) (i : Instr), s.pending = true → decode s.snap.cmd = .instr i →
    (s.schedule = [] → step s = exec i s) ∧
    ∀ rest, s.schedule = .engine :: rest → step s = exec i { s with schedule := rest }

/-- The state withFetchWord gives runs the given command word in its very next step, with the operands of the state it was
given and its schedule untouched (log entry 2; 30_encoding.md R103, R104). -/
def Obligations.FetchWordRunsNext : Prop :=
  ∀ (s : State) (w : Word), step (s.withFetchWord 32 w.toNat) = engineStep (acceptCommand s w)

/-- Words written out from 30_encoding.md R90 and R98 decode to the commands they stand for. -/
def Obligations.SampleWordsDecode : Prop :=
  decode 0x00000000 = .instr .nop ∧ decode 0x00000001 = .instr .enc0 ∧ decode 0x0000030A = .instr (.limit .m3) ∧
  decode 0x00000014 = .instr .pfind ∧ decode 0x00000020 = .instr .danext ∧
  decode 0x00000533 = .instr (.penc .m1 .pad) ∧ decode 0x00000134 = .instr (.pdec .m1) ∧
  decode 0x00000043 = .instr .sprzz ∧ decode 0x0000A045 = .instr (.tiles .startFromLeftAndFlip .grayCodeFromTop) ∧
  decode 0x00000850 = .instr (.memblk true)

/-! ### Commands -/

/-- 44_control.md R300. -/
def Obligations.NopOnlyCompletes : Prop :=
  (∀ w : Word, decode w = .instr .nop ↔ w = 0) ∧ (∀ s : State, exec .nop s = .next (succeeded s)) ∧
  ∀ s : State, s.snap.cmd.toNat % 256 = 0 → s.snap.cmd ≠ 0 → engineStep s = .next (failed s 0x01 s.snap.cmd 0 0 0)

/-- 40_pixel_codec.md R135, R141. -/
def Obligations.PairEncodersFollowTheBitMap : Prop :=
  pairEncodeRule .enc0 0x00000001 .m0 15 ∧ pairEncodeRule .enc3 0x00000007 .m3 3

/-- 40_pixel_codec.md R137. -/
def Obligations.Enc1ClampsAndEncodes : Prop :=
  decode 0x00000003 = .instr .enc1 ∧ ∀ s : State, ∃ b : Byte, ShowsPens .m1 (lane s.snap.args[0]) b ∧
    exec .enc1 s = .next
      { succeeded s with
        res0 := b.setWidth 32
        status := { (succeeded s).status with
          wClamp := s.status.wClamp || (List.range 4).any fun k => decide ((lane s.snap.args[0] k).toNat > 3) } }

/-- The pens of ENC2: lanes of ARG0 for pixels 0 to 3, of ARG1 for pixels 4 to 7 (40_pixel_codec.md R139). -/
def Sys2Proof.Claims.eightPens (k : Snapshot) (i : Nat) : Byte :=
  if i < 4 then lane k.args[0] i else lane k.args[1] (i - 4)

/-- 40_pixel_codec.md R139. -/
def Obligations.Enc2SetsABitForPensOneToThree : Prop :=
  decode 0x00000005 = .instr .enc2 ∧ ∀ s : State, ∃ b : Byte, ShowsPens .m2 (eightPens s.snap) b ∧
    exec .enc2 s = .next
      { succeeded s with
        res0 := b.setWidth 32
        status := { (succeeded s).status with
          wClamp := s.status.wClamp || (List.range 8).any fun k => decide ((eightPens s.snap k).toNat > 3) } }

/-- 40_pixel_codec.md R136, R138, R140, R142. -/
def Obligations.ScalarDecodersReadTheBitMap : Prop :=
  decode 0x00000002 = .instr .dec0 ∧ decode 0x00000004 = .instr .dec1 ∧ decode 0x00000006 = .instr .dec2 ∧
  decode 0x00000008 = .instr .dec3 ∧ ∀ (s : State) (b : Byte), b = lane s.snap.args[0] 0 →
    (∃ r : Word, exec .dec0 s = .next { succeeded s with res0 := r } ∧
      ∀ i < 4, (lane r i).toNat = if i < 2 then penShown .m0 b i else 0) ∧
    (∃ r : Word, exec .dec1 s = .next { succeeded s with res0 := r } ∧
      ∀ i < 4, (lane r i).toNat = penShown .m1 b i) ∧
    (∃ r0 r1 : Word, exec .dec2 s = .next { succeeded s with res0 := r0, res1 := r1 } ∧
      ∀ i < 4, (lane r0 i).toNat = penShown .m2 b i ∧ (lane r1 i).toNat = penShown .m2 b (i + 4)) ∧
    (∃ r : Word, exec .dec3 s = .next { succeeded s with res0 := r } ∧
      ∀ i < 4, (lane r i).toNat = if i < 2 then penShown .m3 b i else 0)

/-- 40_pixel_codec.md R143 with the table of R126. -/
def Obligations.Mix03LooksUpTheTable : Prop :=
  decode 0x00000009 = .instr .mix03 ∧ ∀ (s : State) (p0 p3 : Byte), p0 = lane s.snap.args[0] 0 →
    p3 = lane s.snap.args[0] 1 →
    (p0.toNat ≤ 3 → p3.toNat ≤ 3 →
      exec .mix03 s = .next
        { succeeded s with
          res0 := ([0, 5, 6, 7, 8, 1, 10, 11, 12, 13, 2, 15, 4, 9, 14, 3] : List Word).getD
            (4 * p0.toNat + p3.toNat) 0 }) ∧
    (p0.toNat > 3 → exec .mix03 s = .next (failed s 0x02 0 (p0.setWidth 32) 0 0)) ∧
    (p0.toNat ≤ 3 → p3.toNat > 3 → exec .mix03 s = .next (failed s 0x02 1 (p3.setWidth 32) 0 0))

/-- 40_pixel_codec.md R144 with the masks of R127: the pen modulo the number of colours of the mode. -/
def Obligations.LimitTruncatesToTheMode : Prop :=
  ∀ mode : Mode, decode (0x0000000A ||| modeBits mode) = .instr (.limit mode) ∧
    ∀ (s : State) (p : Byte), p = lane s.snap.args[0] 0 →
      (p.toNat ≤ 16 → exec (.limit mode) s = .next
        { succeeded s with
          res0 := BitVec.ofNat 32 (p.toNat % match mode with
            | .m0 => 16
            | .m1 => 4
            | .m2 => 2
            | .m3 => 4) }) ∧
      (p.toNat > 16 → exec (.limit mode) s = .next (failed s 0x02 0 (p.setWidth 32) 0 0))

/-- 41_ink_palette.md R180 with R172: the first ink at the least squared distance, and that distance. -/
def Obligations.Rgb2inkFindsTheFirstNearestInk : Prop :=
  decode 0x00000010 = .instr .rgb2ink ∧ ∀ (s : State) (c : Rgb),
    c = ⟨s.snap.args[0].extractLsb' 16 8, s.snap.args[0].extractLsb' 8 8, s.snap.args[0].extractLsb' 0 8⟩ →
    ∃ ink : Fin 27, IsNearestInk s.cfg c ink ∧ colourDistance c s.cfg.inkRgb[ink] ≤ 195075 ∧
      exec .rgb2ink s = .next
        { succeeded s with
          res0 := BitVec.ofNat 32 ink.val
          res1 := BitVec.ofNat 32 (colourDistance c s.cfg.inkRgb[ink]).toNat }

/-- 41_ink_palette.md R181, R182. -/
def Obligations.InkLookupsReadTheTables : Prop :=
  decode 0x00000011 = .instr .ink2rgb ∧ decode 0x00000012 = .instr .ink2ga ∧ ∀ s : State,
    (∀ i : Fin 27, (lane s.snap.args[0] 0).toNat = i.val →
      exec .ink2rgb s = .next
        { succeeded s with
          res0 := BitVec.ofNat 32 (s.cfg.inkRgb[i].r.toNat * 65536 + s.cfg.inkRgb[i].g.toNat * 256 +
            s.cfg.inkRgb[i].b.toNat) } ∧
      exec .ink2ga s = .next { succeeded s with res0 := (s.cfg.inkGa[i]).setWidth 32 }) ∧
    ((lane s.snap.args[0] 0).toNat > 26 →
      exec .ink2rgb s = .next (failed s 0x03 0 ((lane s.snap.args[0] 0).setWidth 32) 0 0) ∧
      exec .ink2ga s = .next (failed s 0x03 0 ((lane s.snap.args[0] 0).setWidth 32) 0 0))

/-- 41_ink_palette.md R183. -/
def Obligations.PgetReadsASetPen : Prop :=
  decode 0x00000013 = .instr .pget ∧ ∀ s : State,
    (∀ p : Fin 17, (lane s.snap.args[0] 0).toNat = p.val →
      (s.snap.pal[p].valid = true →
        exec .pget s = .next { succeeded s with res0 := (s.snap.pal[p].ink).setWidth 32 }) ∧
      (s.snap.pal[p].valid = false →
        exec .pget s = .next (failed s 0x04 0 ((lane s.snap.args[0] 0).setWidth 32) 0 0))) ∧
    ((lane s.snap.args[0] 0).toNat > 16 →
      exec .pget s = .next (failed s 0x02 0 ((lane s.snap.args[0] 0).setWidth 32) 0 0))

/-- 41_ink_palette.md R184 with R175: the smallest pen 0 to 15 that holds the ink, Border never. -/
def Obligations.PfindFindsTheSmallestPen : Prop :=
  decode 0x00000014 = .instr .pfind ∧ ∀ (s : State) (i : Byte), i = lane s.snap.args[0] 0 →
    (i.toNat ≤ 31 → ∀ p : Fin 17, IsFirstPen s.snap.pal i.toNat p →
      exec .pfind s = .next { succeeded s with res0 := BitVec.ofNat 32 p.val, res1 := 1 }) ∧
    (i.toNat ≤ 31 → NoPen s.snap.pal i.toNat →
      exec .pfind s = .next { succeeded s with res0 := 0, res1 := 0 }) ∧
    (i.toNat > 31 → exec .pfind s = .next (failed s 0x03 0 (i.setWidth 32) 0 0))

/-- 43_memory_block.md R274 with R272; DAADDR follows DA (10_state.md R38). -/
def Obligations.DanextAdvancesOneWord : Prop :=
  decode 0x00000020 = .instr .danext ∧ ∀ s : State,
    exec .danext s = .next { succeeded s with da := wordAfter s.snap.da } ∧
    readReg { succeeded s with da := wordAfter s.snap.da } .daaddr =
      BitVec.ofNat 32 ((wordAfter s.snap.da).toNat / 0x1000 * 0x4000 + (wordAfter s.snap.da).toNat % 1024 * 2)

/-- 41_ink_palette.md R185. -/
def Obligations.RgbqQuantizesABuffer : Prop :=
  decode 0x00000030 = .instr .rgbq ∧ ∀ (s : State) (src dst n : Nat), src = s.snap.args[0].toNat →
    dst = s.snap.args[1].toNat → n = s.snap.args[2].toNat →
    (¬ inRange s.cfg src (3 * n) → exec .rgbq s = .next (badAddr s src (3 * n) 0)) ∧
    (inRange s.cfg src (3 * n) → ¬ inRange s.cfg dst n → exec .rgbq s = .next (badAddr s dst n 1)) ∧
    (inRange s.cfg src (3 * n) → inRange s.cfg dst n → memWf s.dmem = true →
      ∃ m : Memory, exec .rgbq s = .next { succeeded s with res0 := BitVec.ofNat 32 n, dmem := m } ∧
        (∀ j < n, ∃ ink : Fin 27, (memRead m (dst + j)).toNat = ink.val ∧
          IsNearestInk s.cfg
            ⟨memRead s.snap.dmem (src + 3 * j), memRead s.snap.dmem (src + 3 * j + 1),
             memRead s.snap.dmem (src + 3 * j + 2)⟩ ink) ∧
        keepsOutside s m dst n)

/-- 41_ink_palette.md R186. -/
def Obligations.I2pMapsInksToPens : Prop :=
  decode 0x00000031 = .instr .i2p ∧ ∀ (s : State) (src dst n : Nat) (ink : Nat → Byte), src = s.snap.args[0].toNat →
    dst = s.snap.args[1].toNat → n = s.snap.args[2].toNat → (ink = fun j => memRead s.snap.dmem (src + j)) →
    (¬ inRange s.cfg src n → exec .i2p s = .next (badAddr s src n 0)) ∧
    (inRange s.cfg src n → ¬ inRange s.cfg dst n → exec .i2p s = .next (badAddr s dst n 1)) ∧
    (inRange s.cfg src n → inRange s.cfg dst n → ∀ j < n,
      (∀ q < j, (ink q).toNat ≤ 31 ∧ ¬ NoPen s.snap.pal (ink q).toNat) →
      ((ink j).toNat > 31 → exec .i2p s = .next (failed s 0x03 (BitVec.ofNat 32 j) ((ink j).setWidth 32) 0 0)) ∧
      ((ink j).toNat ≤ 31 → NoPen s.snap.pal (ink j).toNat →
        exec .i2p s = .next (failed s 0x05 (BitVec.ofNat 32 j) ((ink j).setWidth 32) 0 0))) ∧
    (inRange s.cfg src n → inRange s.cfg dst n → memWf s.dmem = true →
      (∀ j < n, (ink j).toNat ≤ 31 ∧ ¬ NoPen s.snap.pal (ink j).toNat) →
      ∃ m : Memory, exec .i2p s = .next { succeeded s with res0 := BitVec.ofNat 32 n, dmem := m } ∧
        (∀ j < n, ∃ p : Fin 17, IsFirstPen s.snap.pal (ink j).toNat p ∧ (memRead m (dst + j)).toNat = p.val) ∧
        keepsOutside s m dst n)

/-- 41_ink_palette.md R187. -/
def Obligations.P2iMapsPensToInks : Prop :=
  decode 0x00000032 = .instr .p2i ∧ ∀ (s : State) (src dst n : Nat) (pen : Nat → Byte), src = s.snap.args[0].toNat →
    dst = s.snap.args[1].toNat → n = s.snap.args[2].toNat → (pen = fun j => memRead s.snap.dmem (src + j)) →
    (¬ inRange s.cfg src n → exec .p2i s = .next (badAddr s src n 0)) ∧
    (inRange s.cfg src n → ¬ inRange s.cfg dst n → exec .p2i s = .next (badAddr s dst n 1)) ∧
    (inRange s.cfg src n → inRange s.cfg dst n → ∀ j < n,
      (∀ q < j, ∃ p : Fin 17, (pen q).toNat = p.val ∧ s.snap.pal[p].valid = true) →
      ((pen j).toNat > 16 → exec .p2i s = .next (failed s 0x02 (BitVec.ofNat 32 j) ((pen j).setWidth 32) 0 0)) ∧
      (∀ p : Fin 17, (pen j).toNat = p.val → s.snap.pal[p].valid = false →
        exec .p2i s = .next (failed s 0x04 (BitVec.ofNat 32 j) ((pen j).setWidth 32) 0 0))) ∧
    (inRange s.cfg src n → inRange s.cfg dst n → memWf s.dmem = true →
      (∀ j < n, ∃ p : Fin 17, (pen j).toNat = p.val ∧ s.snap.pal[p].valid = true) →
      ∃ m : Memory, exec .p2i s = .next { succeeded s with res0 := BitVec.ofNat 32 n, dmem := m } ∧
        (∀ j < n, ∀ p : Fin 17, (pen j).toNat = p.val → memRead m (dst + j) = (s.snap.pal[p].ink).setWidth 8) ∧
        keepsOutside s m dst n)

/-- A pen PENC rejects in a mode (40_pixel_codec.md R145). -/
def Sys2Proof.Claims.pencRejects (mode : Mode) (p : Byte) : Prop :=
  (mode = .m0 ∧ p.toNat > 15) ∨ (mode = .m3 ∧ p.toNat > 3)

/-- 40_pixel_codec.md R145. -/
def Obligations.PencEncodesABuffer : Prop :=
  ∀ (mode : Mode) (tail : Tail),
    decode (0x00000033 ||| modeBits mode ||| if tail = .pad then 0x400 else 0) = .instr (.penc mode tail) ∧
    ∀ (s : State) (src dst n k m : Nat) (q : Nat → Byte), src = s.snap.args[0].toNat → dst = s.snap.args[1].toNat →
    n = s.snap.args[2].toNat → k = pixelsPerByte mode → (m = if tail = .crop then n / k else (n + k - 1) / k) →
    (q = fun i => if i < n then memRead s.snap.dmem (src + i) else lane s.snap.args[3] 0) →
    (¬ inRange s.cfg src n → exec (.penc mode tail) s = .next (badAddr s src n 0)) ∧
    (inRange s.cfg src n → ¬ inRange s.cfg dst m → exec (.penc mode tail) s = .next (badAddr s dst m 1)) ∧
    (inRange s.cfg src n → inRange s.cfg dst m → ∀ i < m * k, (∀ j < i, ¬ pencRejects mode (q j)) →
      pencRejects mode (q i) →
      exec (.penc mode tail) s = .next (failed s 0x02 (BitVec.ofNat 32 i) ((q i).setWidth 32) 0 0)) ∧
    (inRange s.cfg src n → inRange s.cfg dst m → memWf s.dmem = true → (∀ i < m * k, ¬ pencRejects mode (q i)) →
      ∃ mem : Memory, exec (.penc mode tail) s = .next
          { succeeded s with
            res0 := BitVec.ofNat 32 m
            dmem := mem
            status := { (succeeded s).status with
              wClamp := s.status.wClamp ||
                (decide (mode = .m1 ∨ mode = .m2) && (List.range (m * k)).any fun i => decide ((q i).toNat > 3)) } } ∧
        (∀ j < m, ShowsPens mode (fun i => q (j * k + i)) (memRead mem (dst + j))) ∧ keepsOutside s mem dst m)

/-- 40_pixel_codec.md R146. -/
def Obligations.PdecDecodesABuffer : Prop :=
  ∀ mode : Mode, decode (0x00000034 ||| modeBits mode) = .instr (.pdec mode) ∧
    ∀ (s : State) (src dst n k : Nat), src = s.snap.args[0].toNat → dst = s.snap.args[1].toNat →
    n = s.snap.args[2].toNat → k = pixelsPerByte mode →
    (¬ inRange s.cfg src n → exec (.pdec mode) s = .next (badAddr s src n 0)) ∧
    (inRange s.cfg src n → ¬ inRange s.cfg dst (n * k) → exec (.pdec mode) s = .next (badAddr s dst (n * k) 1)) ∧
    (inRange s.cfg src n → inRange s.cfg dst (n * k) → memWf s.dmem = true →
      ∃ m : Memory, exec (.pdec mode) s = .next { succeeded s with res0 := BitVec.ofNat 32 (n * k), dmem := m } ∧
        (∀ j < n, ∀ i < k,
          (memRead m (dst + j * k + i)).toNat = penShown mode (memRead s.snap.dmem (src + j)) i) ∧
        keepsOutside s m dst (n * k))

/-- 42_sprite_packers.md R225 to R229. -/
def Obligations.RowOrderCommandsCopyTheSprite : Prop :=
  rowOrderRule .sprlin 0x00000040 false (fun r => r) false ∧
  rowOrderRule .sprgray 0x00000041 true (fun r => 8 * (r / 8) + gray (r % 8)) false ∧
  rowOrderRule .sprungray 0x00000042 true (fun r => 8 * (r / 8) + ungray (r % 8)) false ∧
  rowOrderRule .sprzz 0x00000043 true (fun r => 8 * (r / 8) + gray (r % 8)) true ∧
  rowOrderRule .sprlrl 0x00000044 false (fun r => r) true

/-- The directions TILES rejects, values 1 and 3 of HDIR or VDIR (42_sprite_packers.md R230, R231). -/
def Obligations.TilesRejectsRightStartAndUpwardScans : Prop :=
  ∀ (hdir : HDir) (vdir : VDir) (s : State),
    (hdir = .rightToLeft ∨ hdir = .startFromRightAndFlip ∨ vdir = .bottomToTop ∨ vdir = .flipAtEnd) →
    exec (.tiles hdir vdir) s = .next (failed s 0x0B s.snap.cmd 0 0 0)

/-- 42_sprite_packers.md R232: a size field, 0 being "full"; a grid field, 0 being as many whole tiles as fit. -/
def Sys2Proof.Claims.TileParameters (k : Snapshot) (w h tw th gw gh : Nat) : Prop :=
  (tw = if k.args[5].toNat % 65536 = 0 then w else k.args[5].toNat % 65536) ∧
  (th = if k.args[5].toNat / 65536 = 0 then h else k.args[5].toNat / 65536) ∧
  (gw = if k.args[6].toNat % 65536 = 0 then (if tw = 0 then 0 else w / tw) else k.args[6].toNat % 65536) ∧
  (gh = if k.args[6].toNat / 65536 = 0 then (if th = 0 then 0 else h / th) else k.args[6].toNat / 65536)

/-- 42_sprite_packers.md R233 for the supported directions; RES0 is stated where gw * gh fits a register, elsewhere it is a
free value (the model's choice, log entry 6). -/
def Obligations.TilesCutsTheGrid : Prop :=
  decode 0x00000045 = .instr (.tiles .leftToRight .topToBottom) ∧
  decode 0x00002045 = .instr (.tiles .startFromLeftAndFlip .topToBottom) ∧
  decode 0x00008045 = .instr (.tiles .leftToRight .grayCodeFromTop) ∧
  decode 0x0000A045 = .instr (.tiles .startFromLeftAndFlip .grayCodeFromTop) ∧
  ∀ (hdir : HDir) (vdir : VDir) (s : State) (src dst w h stride tw th gw gh : Nat),
    (hdir = .leftToRight ∨ hdir = .startFromLeftAndFlip) → (vdir = .topToBottom ∨ vdir = .grayCodeFromTop) →
    src = s.snap.args[0].toNat → dst = s.snap.args[1].toNat → w = s.snap.args[2].toNat → h = s.snap.args[3].toNat →
    stride = s.snap.args[4].toNat → TileParameters s.snap w h tw th gw gh →
    ((gw * tw > w ∨ gh * th > h) → exec (.tiles hdir vdir) s = .next
      (failed s 0x07 (saturated (gw * tw)) (saturated (gh * th)) (BitVec.ofNat 32 w) (BitVec.ofNat 32 h))) ∧
    (gw * tw ≤ w → gh * th ≤ h →
      ((vdir = .grayCodeFromTop ∧ th % 8 ≠ 0) →
        exec (.tiles hdir vdir) s = .next (failed s 0x06 (BitVec.ofNat 32 th) 8 0 0)) ∧
      (¬ (vdir = .grayCodeFromTop ∧ th % 8 ≠ 0) →
        (¬ inRange s.cfg src (sourceLength w h stride) →
          exec (.tiles hdir vdir) s = .next (badAddr s src (sourceLength w h stride) 0)) ∧
        (inRange s.cfg src (sourceLength w h stride) → ¬ inRange s.cfg dst (gw * gh * tw * th) →
          exec (.tiles hdir vdir) s = .next (badAddr s dst (gw * gh * tw * th) 1)) ∧
        (inRange s.cfg src (sourceLength w h stride) → inRange s.cfg dst (gw * gh * tw * th) → memWf s.dmem = true →
          ∃ (m : Memory) (count : Word) (free : Nat), exec (.tiles hdir vdir) s = .next
              { succeeded s with res0 := count, res1 := saturated (tw * th), dmem := m, freeCount := free } ∧
            (gw * gh < 2 ^ 32 → count = BitVec.ofNat 32 (gw * gh) ∧ free = s.freeCount) ∧
            (∀ gy < gh, ∀ gx < gw, ∀ y < th, ∀ x < tw,
              memRead m (dst + (gy * gw + gx) * tw * th + y * tw + x) =
                memRead s.snap.dmem
                  (src + (gy * th + (if vdir = .grayCodeFromTop then 8 * (y / 8) + gray (y % 8) else y)) * stride +
                    (gx * tw + (if hdir = .startFromLeftAndFlip ∧ y % 2 = 1 then tw - 1 - x else x)))) ∧
            keepsOutside s m dst (gw * gh * tw * th))))

/-- The number of pages a mask names (43_memory_block.md R277). -/
def Sys2Proof.Claims.pagesIn (pm : BitVec 4) : Nat :=
  (pm.getLsbD 0).toNat + (pm.getLsbD 1).toNat + (pm.getLsbD 2).toNat + (pm.getLsbD 3).toNat

/-- 43_memory_block.md R276 with R277. Word k of the walk lies at the address k words after DA; its byte b of line l takes
sprite row (k / hd) * (mra + 1) + l, column (k mod hd) * 2 + b; of two words at one address the later wins. -/
def Obligations.MemblkLaysOutTheScreen : Prop :=
  decode 0x00000050 = .instr (.memblk false) ∧ decode 0x00000850 = .instr (.memblk true) ∧
  ∀ (crop : Bool) (s : State) (src w h stride hd vd mra : Nat) (pos : Nat → BitVec 14) (row col : Nat → Nat → Nat),
    src = s.snap.args[0].toNat → w = s.snap.args[2].toNat → h = s.snap.args[3].toNat →
    stride = s.snap.args[4].toNat → hd = s.snap.scrdim.toNat % 256 → vd = s.snap.scrdim.toNat / 256 % 256 →
    mra = s.snap.scrdim.toNat / 65536 → pos = wordsAfter s.snap.da →
    (row = fun k l => k / hd * (mra + 1) + l) → (col = fun k b => k % hd * 2 + b) →
    (mra > 7 → exec (.memblk crop) s = .next (failed s 0x0A (BitVec.ofNat 32 mra) 7 0 0)) ∧
    (mra ≤ 7 → crop = false → (w ≠ 2 * hd ∨ h ≠ vd * (mra + 1)) → exec (.memblk crop) s = .next
      (failed s 0x08 (BitVec.ofNat 32 (2 * hd)) (BitVec.ofNat 32 (vd * (mra + 1))) (BitVec.ofNat 32 w)
        (BitVec.ofNat 32 h))) ∧
    (mra ≤ 7 → (crop = true ∨ (w = 2 * hd ∧ h = vd * (mra + 1))) →
      (¬ inRange s.cfg src (sourceLength w h stride) →
        exec (.memblk crop) s = .next (badAddr s src (sourceLength w h stride) 0)) ∧
      (inRange s.cfg src (sourceLength w h stride) →
        ∃ (m : Memory) (pm : BitVec 4) (kind : BitVec 2), exec (.memblk crop) s = .next
            { succeeded s with
              res0 := (pos (vd * hd)).setWidth 32
              pmem := m
              status := { (succeeded s).status with
                pageMask := pm
                memKind := kind
                wDim := s.status.wDim || decide (crop = true ∧ (w < 2 * hd ∨ h < vd * (mra + 1)))
                wPages := s.status.wPages || decide (kind = 3) } } ∧
          (∀ p < 4, pm.getLsbD p = true ↔ ∃ k < vd * hd, (pos k).toNat / 0x1000 = p) ∧
          (kind = if pagesIn pm = 1 then 1
            else if pagesIn pm = 2 ∧ 2 * hd * vd * (mra + 1) > 0x4000 then 2 else 3) ∧
          (∀ k < vd * hd, ∀ l ≤ mra, ∀ b < 2, row k l < h → col k b < w →
            (∀ k' < vd * hd, k < k' → pos k' = pos k → ¬ (row k' l < h ∧ col k' b < w)) →
            memRead m (screenByteAddr (pos k) l b) = memRead s.snap.dmem (src + row k l * stride + col k b)) ∧
          ∀ a, (∀ k < vd * hd, ∀ l ≤ mra, ∀ b < 2, row k l < h → col k b < w → screenByteAddr (pos k) l b ≠ a) →
            memRead m a = 0))

/-! ### Every command -/

/-- 60_exceptions.md R315, R316: a completion either records an error and changes nothing else, or leaves ERRCODE 0 with ERR,
ERRINFO and CMD as they were; either way BUSY is 0, DONE 1 and the snapshot discarded. -/
def Obligations.CompletionsArePreciseAndAtomic : Prop :=
  ∀ s : State,
    (∃ (code : Byte) (i0 i1 i2 i3 : Word), 1 ≤ code.toNat ∧ code.toNat ≤ 0x0B ∧
      engineStep s = .next (failed s code i0 i1 i2 i3)) ∨
    (∃ t, engineStep s = .next t ∧ t.status.errcode = 0 ∧ t.status.busy = false ∧ t.status.done = true ∧
      t.status.err = s.status.err ∧ t.status.ovr = s.status.ovr ∧ t.errinfo = s.errinfo ∧ t.cmd = s.cmd ∧
      t.pending = false ∧ t.snap = Snapshot.discarded)

/-- The engine never writes what only the host writes: ARG0 to ARG7, SCRDIM, the palette, CTRL.IE, CMD
(10_state.md R33, R39, R43, 60_exceptions.md R319), nor the model's parameters, schedule and read value. -/
def Obligations.EngineKeepsTheHostsRegisters : Prop :=
  ∀ s t : State, engineStep s = .next t →
    t.args = s.args ∧ t.scrdim = s.scrdim ∧ t.pal = s.pal ∧ t.ie = s.ie ∧ t.cmd = s.cmd ∧ t.cfg = s.cfg ∧
      t.schedule = s.schedule ∧ t.rdata = s.rdata

/-- The commands that write DMEM (20_memory.md R62). -/
def Sys2Proof.Claims.writesDmem : Instr → Bool
  | .rgbq | .i2p | .p2i | .penc _ _ | .pdec _ | .sprlin | .sprgray | .sprungray | .sprzz | .sprlrl | .tiles _ _ => true
  | _ => false

/-- The commands that name RES1 (30_encoding.md R102). -/
def Sys2Proof.Claims.namesRes1 : Instr → Bool
  | .dec2 | .rgb2ink | .pfind | .tiles _ _ => true
  | _ => false

/-- The commands that can reach `warn(W_CLAMP)` (60_exceptions.md R313). -/
def Sys2Proof.Claims.mayClamp : Instr → Bool
  | .enc1 | .enc2 | .penc .m1 _ | .penc .m2 _ => true
  | _ => false

/-- The frame of every command: what it does not name it leaves as it was (10_state.md R31, R34, R36; 20_memory.md R62,
R63; 60_exceptions.md R313), every byte of both memories included. -/
def Obligations.CommandsWriteOnlyWhatTheyName : Prop :=
  ∀ (i : Instr) (s t : State), exec i s = .next t →
    (i ≠ .danext → t.da = s.da) ∧
    (writesDmem i = false → ∀ a, memRead t.dmem a = memRead s.dmem a) ∧
    ((∀ crop, i ≠ .memblk crop) → (∀ a, memRead t.pmem a = memRead s.pmem a) ∧
      t.status.pageMask = s.status.pageMask ∧ t.status.memKind = s.status.memKind ∧
      t.status.wDim = s.status.wDim ∧ t.status.wPages = s.status.wPages) ∧
    (mayClamp i = false → t.status.wClamp = s.status.wClamp) ∧
    (namesRes1 i = false → t.res1 = s.res1) ∧
    ((i = .nop ∨ i = .danext) → t.res0 = s.res0) ∧
    ((∀ hdir vdir, i ≠ .tiles hdir vdir) → t.freeCount = s.freeCount)

/-- 30_encoding.md R105: the engine's one step completes the pending command: BUSY and `pending` become 0 and DONE 1 in it,
and no command hangs. -/
def Obligations.PendingCommandCompletesInOneStep : Prop :=
  ∀ s : State, s.pending = true → (s.schedule = [] ∨ ∃ rest, s.schedule = .engine :: rest) →
    ∃ t, step s = .next t ∧ t.status.busy = false ∧ t.pending = false ∧ t.status.done = true

/-! ### The host's accesses -/

/-- 30_encoding.md R103: a CMD write while idle stores the word, takes the snapshot, sets BUSY and `pending`, and does not
check the word; nothing else changes. -/
def Obligations.CmdWriteAcceptsACommand : Prop :=
  ∀ (s : State) (v : Word) (rest : List Event), s.status.busy = false → s.schedule = .regWrite 0x0C 4 v :: rest →
    step s = .next
      { s with
        schedule := rest
        cmd := v
        status := { s.status with busy := true }
        pending := true
        snap :=
          { cmd := v, args := s.args, da := s.da, scrdim := s.scrdim, pal := s.pal, dmem := s.dmem, pmem := s.pmem } }

/-- 20_memory.md R71: in every state a register read has no side effect; it returns the register's value, which the model
holds in `rdata` (the model's choice, log entry 5). 70_reset_and_hazards.md R356, R352 and 30_encoding.md R106: writes in
the pending window. CTRL stores IE, its SRST request setting OVR; STATUS clears its W1C bits; every other offset, CMD
among them, is ignored and sets OVR. -/
def Obligations.PendingWindowRegisterAccesses : Prop :=
  ∀ (s : State) (off : Nat) (v : Word) (rest : List Event), off % 4 = 0 → off < 0x100 →
    (s.schedule = .regRead off 4 :: rest →
      step s = .next { s with schedule := rest, rdata := readReg s (regAt off) }) ∧
    (s.status.busy = true → s.schedule = .regWrite off 4 v :: rest →
      (off = 0x04 → step s = .next
        { s with
          schedule := rest
          ie := v.getLsbD 0
          status := { s.status with ovr := s.status.ovr || v.getLsbD 1 } }) ∧
      (off = 0x08 → step s = .next
        { s with
          schedule := rest
          status := { s.status with
            done := s.status.done && !v.getLsbD 1
            err := s.status.err && !v.getLsbD 2
            ovr := s.status.ovr && !v.getLsbD 3
            wClamp := s.status.wClamp && !v.getLsbD 16
            wDim := s.status.wDim && !v.getLsbD 17
            wPages := s.status.wPages && !v.getLsbD 18 } }) ∧
      (off ≠ 0x04 → off ≠ 0x08 → step s = .next
        { s with schedule := rest, status := { s.status with ovr := true } }))

/-- A register's value after reset (10_state.md R21): ID and DMEMSZ keep theirs, every other one reads 0. -/
def Sys2Proof.Claims.resetValue (cfg : Config) (off : Nat) : Word :=
  if off = 0x00 then 0x43504358 else if off = 0x5C then cfg.dmemSize else 0

/-- 70_reset_and_hazards.md R350: a hardware reset in any state, a command pending or not: every offset of the map reads its
reset value, IRQ is low, `pending` is clear and the snapshot discarded. -/
def Obligations.HardwareResetClearsEveryRegister : Prop :=
  ∀ (s : State) (d p : List Host.Cell) (rest : List Event), s.schedule = .hardReset d p :: rest →
    ∃ t, step s = .next t ∧ (∀ off, off % 4 = 0 → off < 0x100 → readReg t (regAt off) = resetValue s.cfg off) ∧
      t.irq = false ∧ t.pending = false ∧ t.snap = Snapshot.discarded ∧ t.cfg = s.cfg ∧ t.schedule = rest

/-- The state of the model right after reset, for every choice of the parameters and of the memories' contents
(70_reset_and_hazards.md R350, R351). State.reset is one of these states; its parameters and its empty memories are the
model's choice (log entries 3 and 4). -/
def Obligations.ResetStateReadsTheResetValues : Prop :=
  (∀ (cfg : Config) (d p : Memory), (∀ off, off % 4 = 0 → off < 0x100 →
      readReg (State.resetWith cfg d p) (regAt off) = resetValue cfg off) ∧
    (State.resetWith cfg d p).irq = false ∧ (State.resetWith cfg d p).pending = false ∧
    (∀ a, memRead (State.resetWith cfg d p).dmem a = memRead d a) ∧
    (∀ a, memRead (State.resetWith cfg d p).pmem a = memRead p a)) ∧
  ∃ (cfg : Config) (d p : Memory), State.reset = State.resetWith cfg d p

/-- 70_reset_and_hazards.md R351: any contents of the memories, inside their spaces, are those some hardware reset leaves. -/
def Obligations.HardwareResetTakesAnyMemoryContents : Prop :=
  ∀ (s : State) (d p : Memory), memWf d = true → memWithin s.cfg.dmemSize.toNat d = true → memWf p = true →
    memWithin 0x10000 p = true →
    (∀ a, memRead (hardReset s d p).dmem a = memRead d a) ∧ (∀ a, memRead (hardReset s d p).pmem a = memRead p a)

/-- 70_reset_and_hazards.md R352: soft reset. Idle: the registers and the hidden state as a hardware reset leaves them, the
memories unchanged, whatever the other bits of the write hold. Busy: ignored, OVR set, IE stored. -/
def Obligations.SoftResetClearsRegistersOnly : Prop :=
  ∀ (s : State) (v : Word) (rest : List Event), s.schedule = .regWrite 0x04 4 v :: rest → v.getLsbD 1 = true →
    (s.status.busy = false →
      ∃ t, step s = .next t ∧
        (∀ off, off % 4 = 0 → off < 0x100 → readReg t (regAt off) = resetValue s.cfg off) ∧ t.irq = false ∧
        t.pending = false ∧ t.snap = Snapshot.discarded ∧ t.dmem = s.dmem ∧ t.pmem = s.pmem) ∧
    (s.status.busy = true →
      step s = .next
        { s with schedule := rest, ie := v.getLsbD 0, status := { s.status with ovr := true } })

/-- A write to STATUS clears exactly the W1C bits written 1, and reads back so: bits 1, 2, 3, 16, 17 and 18
(10_state.md R24, 60_exceptions.md R318). -/
def Obligations.StatusWriteClearsWrittenOnes : Prop :=
  ∀ (s : State) (v : Word) (rest : List Event), s.schedule = .regWrite 0x08 4 v :: rest →
    ∃ st : Status, step s = .next { s with schedule := rest, status := st } ∧
      statusWord st = statusWord s.status &&& ~~~(v &&& 0x0007000E)

/-- Whether a host register write clears bit n of STATUS: a 1 in that bit of a STATUS write, or a soft reset taken. -/
def Sys2Proof.Claims.clearsBit (s : State) (n : Nat) (ev : Event) : Prop :=
  (∃ d p, ev = .hardReset d p) ∨
  (∃ v, ev = .regWrite 0x08 4 v ∧ v.getLsbD n = true) ∨
  (∃ v, ev = .regWrite 0x04 4 v ∧ v.getLsbD 1 = true ∧ s.status.busy = false)

/-- The sticky bits of STATUS fall only by the host's W1C write or by a reset, whatever step is taken
(10_state.md R26, R27, R28, R30; 60_exceptions.md R318). -/
def Obligations.StickyBitsFallOnlyByHostOrReset : Prop :=
  ∀ (s t : State), step s = .next t → ∀ n : Nat, n ∈ [1, 2, 3, 16, 17, 18] →
    (statusWord s.status).getLsbD n = true → (statusWord t.status).getLsbD n = false →
    ∃ ev rest, s.schedule = ev :: rest ∧ clearsBit s n ev

/-- 10_state.md R28: OVR rises exactly when, in the pending window, the host writes CMD or any offset other than CTRL and
STATUS, or writes CTRL with SRST; it falls only by a W1C write of bit 3 or by reset. -/
def Obligations.OverrunRecordsRefusedWrites : Prop :=
  ∀ (s t : State), step s = .next t →
    (s.status.ovr = false →
      (t.status.ovr = true ↔ s.status.busy = true ∧ ∃ off v rest, s.schedule = .regWrite off 4 v :: rest ∧ off ≠ 0x08 ∧
        (off = 0x04 → v.getLsbD 1 = true))) ∧
    (s.status.ovr = true → t.status.ovr = false → ∃ ev rest, s.schedule = ev :: rest ∧ clearsBit s 3 ev)

/-- 60_exceptions.md R317: IRQ is IE and DONE; a completion raises it when IE is 1, clearing DONE or IE lowers it, and
setting IE while DONE is 1 raises it at once. -/
def Obligations.IrqIsIeAndDone : Prop :=
  (∀ s : State, s.irq = (s.ie && s.status.done)) ∧
  (∀ (s t : State), engineStep s = .next t → t.irq = s.ie) ∧
  (∀ (s : State) (v : Word) (rest : List Event), s.schedule = .regWrite 0x08 4 v :: rest → v.getLsbD 1 = true →
    ∃ t, step s = .next t ∧ t.irq = false) ∧
  (∀ (s : State) (v : Word) (rest : List Event), s.schedule = .regWrite 0x04 4 v :: rest → v.getLsbD 1 = false →
    ∃ t, step s = .next t ∧ t.irq = (v.getLsbD 0 && s.status.done))

/-- The fields of STATUS at their bits, the reserved bits 0 (10_state.md R24). -/
def Obligations.StatusWordHasItsFields : Prop :=
  ∀ st : Status,
    (statusWord st).getLsbD 0 = st.busy ∧ (statusWord st).getLsbD 1 = st.done ∧ (statusWord st).getLsbD 2 = st.err ∧
    (statusWord st).getLsbD 3 = st.ovr ∧ (statusWord st).extractLsb' 4 4 = 0 ∧
    (statusWord st).extractLsb' 8 8 = st.errcode ∧ (statusWord st).getLsbD 16 = st.wClamp ∧
    (statusWord st).getLsbD 17 = st.wDim ∧ (statusWord st).getLsbD 18 = st.wPages ∧
    (statusWord st).getLsbD 19 = false ∧ (statusWord st).extractLsb' 20 4 = st.pageMask ∧
    (statusWord st).extractLsb' 24 2 = st.memKind ∧ (statusWord st).extractLsb' 26 6 = 0

/-- 10_state.md R45: reserved offsets and the reserved bits of assigned registers read 0 in every state, and an idle host
write to a reserved or read-only offset changes nothing. -/
def Obligations.ReservedAndReadOnlyRegisters : Prop :=
  (∀ (s : State) (off : Nat), off % 4 = 0 → ((0x60 ≤ off ∧ off ≤ 0x7C) ∨ (0xC4 ≤ off ∧ off ≤ 0xFC)) →
    readReg s (regAt off) = 0) ∧
  (∀ s : State, readReg s (regAt 0x04) &&& 0xFFFFFFFE = 0 ∧ readReg s (regAt 0x08) &&& 0xFC0800F0 = 0 ∧
    readReg s (regAt 0x48) &&& 0xFFFFC000 = 0 ∧ readReg s (regAt 0x50) &&& 0xFFE00000 = 0 ∧
    readReg s (regAt 0x58) &&& 0xFFFFFFFE = 0 ∧
    ∀ p : Nat, p ≤ 16 → readReg s (regAt (0x80 + 4 * p)) &&& 0xFFFFFF60 = 0) ∧
  ∀ (s : State) (v : Word) (off : Nat) (rest : List Event), s.status.busy = false → off % 4 = 0 →
    (((0x60 ≤ off ∧ off ≤ 0x7C) ∨ (0xC4 ≤ off ∧ off ≤ 0xFC)) ∨
      off ∈ [0x00, 0x30, 0x34, 0x38, 0x3C, 0x40, 0x44, 0x4C, 0x54, 0x58, 0x5C]) →
    s.schedule = .regWrite off 4 v :: rest → step s = .next { s with schedule := rest }

/-- 10_state.md R22, R38, R40, R41, R42: the constant and derived registers. -/
def Obligations.DerivedRegistersReadTheirFormulas : Prop :=
  ∀ (s : State) (hd vd mra : Nat), hd = s.scrdim.toNat % 256 → vd = s.scrdim.toNat / 256 % 256 →
    mra = s.scrdim.toNat / 65536 →
    readReg s (regAt 0x00) = 0x43504358 ∧
    (readReg s (regAt 0x4C)).toNat = s.da.toNat / 0x1000 * 0x4000 + s.da.toNat % 1024 * 2 ∧
    (readReg s (regAt 0x54)).toNat = 2 * hd * vd * (mra + 1) ∧ 2 * hd * vd * (mra + 1) ≤ 4161600 ∧
    readReg s (regAt 0x58) = (if 2 * hd * vd * (mra + 1) > 0x4000 then 1 else 0) ∧
    readReg s (regAt 0x5C) = s.cfg.dmemSize

/-- An idle host write to a read-write register stores the bits its rule names and reads back so: CTRL without SRST, ARG0 to
ARG7, DA, SCRDIM, PAL0 to PAL16; every other register of the map that is not derived from it reads as before
(10_state.md R23, R33, R36, R39, R43). -/
def Obligations.RegisterWritesReadBack : Prop :=
  ∀ (s : State) (v : Word) (off : Nat) (rest : List Event) (mask : Word), s.status.busy = false →
    s.schedule = .regWrite off 4 v :: rest →
    ((off = 0x04 ∧ v.getLsbD 1 = false ∧ mask = 0x00000001) ∨
      (off % 4 = 0 ∧ 0x10 ≤ off ∧ off ≤ 0x2C ∧ mask = 0xFFFFFFFF) ∨ (off = 0x48 ∧ mask = 0x00003FFF) ∨
      (off = 0x50 ∧ mask = 0x001FFFFF) ∨ (off % 4 = 0 ∧ 0x80 ≤ off ∧ off ≤ 0xC0 ∧ mask = 0x0000009F)) →
    ∃ t, step s = .next t ∧ readReg t (regAt off) = v &&& mask ∧
      (∀ o, o % 4 = 0 → o < 0x100 → o ≠ off → ¬ (off = 0x48 ∧ o = 0x4C) → ¬ (off = 0x50 ∧ (o = 0x54 ∨ o = 0x58)) →
        readReg t (regAt o) = readReg s (regAt o)) ∧
      (∀ a, memRead t.dmem a = memRead s.dmem a) ∧ (∀ a, memRead t.pmem a = memRead s.pmem a) ∧
      t.pending = s.pending ∧ t.snap = s.snap

/-- 20_memory.md R68: a REG access that is not 32 bits at a multiple of 4 is refused. -/
def Obligations.IllFormedRegisterAccessIsRefused : Prop :=
  ∀ (s : State) (off width : Nat) (v : Word) (rest : List Event), (width ≠ 4 ∨ off % 4 ≠ 0) →
    (s.schedule = .regRead off width :: rest ∨ s.schedule = .regWrite off width v :: rest) →
    step s = .refused (.regAccessForm off width)

/-- 70_reset_and_hazards.md R357: a host access to DMEM or PMEM in the pending window is refused. -/
def Obligations.PendingWindowMemoryAccessIsRefused : Prop :=
  ∀ (s : State) (space : MemSpace) (a : Nat) (b : Byte) (rest : List Event), s.status.busy = true →
    (s.schedule = .byteRead space a :: rest ∨ s.schedule = .byteWrite space a b :: rest) →
    step s = .refused (.pendingWindowAccess space a)

/-- Host byte accesses outside the pending window and inside the space: a write stores its byte and no other byte of either
memory changes, a read returns the byte and changes nothing of the block (20_memory.md R69, R71). -/
def Obligations.HostByteAccesses : Prop :=
  ∀ (s : State) (space : MemSpace) (a : Nat) (b : Byte) (rest : List Event), s.status.busy = false →
    a < (match space with
      | .dmem => s.cfg.dmemSize.toNat
      | .pmem => 0x10000) →
    memWf s.dmem = true → memWf s.pmem = true →
    (s.schedule = .byteWrite space a b :: rest →
      ∃ d p, step s = .next { s with schedule := rest, dmem := d, pmem := p } ∧
        (∀ x, memRead d x = if space = .dmem ∧ x = a then b else memRead s.dmem x) ∧
        ∀ x, memRead p x = if space = .pmem ∧ x = a then b else memRead s.pmem x) ∧
    (s.schedule = .byteRead space a :: rest →
      step s = .next
        { s with
          schedule := rest
          rdata := ((if space = .dmem then memRead s.dmem a else memRead s.pmem a) : Byte).setWidth 32 })

/-- 60_exceptions.md R327: with no command pending the engine takes no step and all state is kept. -/
def Obligations.IdleBlockKeepsItsState : Prop :=
  ∀ s : State, s.pending = false →
    (s.schedule = [] → step s = .next s) ∧
    ∀ rest, s.schedule = .engine :: rest → step s = .next { s with schedule := rest }

/-! ### Invariants -/

/-- Every step keeps the invariant of Sys2Proof/Safety.lean: canonical memories inside their spaces, BUSY saying whether a
command is pending, the snapshot of a pending command still equal to the registers and memories, ERRCODE a known code,
PAGEMASK and MEMKIND fitting. -/
def Obligations.EveryStepKeepsTheInvariant : Prop := ∀ s t : State, s.Inv → step s = .next t → t.Inv

/-- The invariant holds right after reset, for State.reset and for every legal choice of parameters and memories. -/
def Obligations.ResetSatisfiesTheInvariant : Prop :=
  State.reset.Inv ∧ ∀ (cfg : Config) (d p : Memory), cfg.wf = true → memWf d = true →
    memWithin cfg.dmemSize.toNat d = true → memWf p = true → memWithin 0x10000 p = true →
    (State.resetWith cfg d p).Inv

/-- The parameters never change: "The tables `INK_RGB` and `INK_GA` … are parameters, not state: they never change"
(10_state.md R20, 00_scope.md R6). That they are carried by the state is the model's choice (log entry 3). -/
def Obligations.ParametersNeverChange : Prop := ∀ s t : State, step s = .next t → t.cfg = s.cfg

/-- A step stops exactly when the host's next move is one the spec gives no meaning to: no command and no reset ever stops
the machine (20_memory.md R61 to R63, R68; 70_reset_and_hazards.md R357; 30_encoding.md R105). -/
def Obligations.OnlyDisallowedHostMovesStop : Prop := ∀ s : State, stepSafe s ↔ moveAllowed s = true

/-! ### Laws the spec states -/

/-- 40_pixel_codec.md R147: the round trip of each mode, and that enc0, enc1 and enc2 are bijections onto the 256 bytes. -/
def Obligations.CodecRoundTrips : Prop :=
  (∀ p0 p1 : Byte, p0.toNat < 16 → p1.toNat < 16 → dec0 (enc0 p0 p1) = (p0, p1)) ∧
  (∀ q0 q1 q2 q3 : Byte, q0.toNat < 4 → q1.toNat < 4 → q2.toNat < 4 → q3.toNat < 4 →
    dec1Pen (enc1 q0 q1 q2 q3) 0 = q0 ∧ dec1Pen (enc1 q0 q1 q2 q3) 1 = q1 ∧ dec1Pen (enc1 q0 q1 q2 q3) 2 = q2 ∧
      dec1Pen (enc1 q0 q1 q2 q3) 3 = q3) ∧
  (∀ q : Nat → Byte, (∀ k < 8, (q k).toNat < 2) → ∀ k < 8, dec2Pen (enc2 q) k = q k) ∧
  (∀ p0 p1 : Byte, p0.toNat < 4 → p1.toNat < 4 → dec3 (enc3 p0 p1) = (p0, p1)) ∧
  (∀ b : Byte, (dec0 b).1.toNat < 16 ∧ (dec0 b).2.toNat < 16 ∧ enc0 (dec0 b).1 (dec0 b).2 = b) ∧
  (∀ b : Byte, (∀ k < 4, (dec1Pen b k).toNat < 4) ∧
    enc1 (dec1Pen b 0) (dec1Pen b 1) (dec1Pen b 2) (dec1Pen b 3) = b) ∧
  ∀ b : Byte, (∀ k < 8, (dec2Pen b k).toNat < 2) ∧ enc2 (dec2Pen b) = b

/-- The mixer law: its values are pens 0 to 15, all distinct, equal to p3 modulo 4, and a byte holding one in either pixel
decodes there in mode 3 to p3 (40_pixel_codec.md R148). -/
def Obligations.MixerShowsTheMode3Pen : Prop :=
  (∀ p0 < 4, ∀ p3 < 4, (mix03 p0 p3).toNat ≤ 15 ∧ (mix03 p0 p3).toNat % 4 = p3 ∧
    ∀ q : Byte, (dec3 (enc0 (mix03 p0 p3) q)).1.toNat = p3 ∧ (dec3 (enc0 q (mix03 p0 p3))).2.toNat = p3) ∧
  (∀ p0 < 4, ∀ p3 < 4, ∀ q0 < 4, ∀ q3 < 4, mix03 p0 p3 = mix03 q0 q3 → p0 = q0 ∧ p3 = q3) ∧
  mix03 0 0 = 0 ∧ mix03 3 3 = 3 ∧ mix03 0 1 = 5 ∧ mix03 3 0 = 4

/-- 41_ink_palette.md R188: the nearest ink of an ink's own colour is the first with that colour, and quantizing twice is
quantizing once, for every table, duplicates included. -/
def Obligations.QuantizerIsIdempotent : Prop :=
  ∀ cfg : Config,
    (∀ i : Fin 27, ∃ j : Fin 27, (nearest cfg cfg.inkRgb[i]).1 = j.val ∧ cfg.inkRgb[j] = cfg.inkRgb[i] ∧
      ∀ q : Fin 27, q < j → cfg.inkRgb[q] ≠ cfg.inkRgb[i]) ∧
    ∀ c : Rgb, ∀ j : Fin 27, (nearest cfg c).1 = j.val → (nearest cfg cfg.inkRgb[j]).1 = (nearest cfg c).1

/-- The snapshot of a second row-order command run on the packed output of a first: source the first's destination, the
same W and H, STRIDE = W, a destination of its own, DMEM as the first left it. -/
def Sys2Proof.Claims.readsOutputOf (s t u : State) : Prop :=
  u.snap.args[0] = s.snap.args[1] ∧ u.snap.args[2] = s.snap.args[2] ∧ u.snap.args[3] = s.snap.args[3] ∧
    u.snap.args[4] = s.snap.args[2] ∧ u.snap.dmem = t.dmem

/-- 42_sprite_packers.md R234 items 1 and 2: gray-coding and then ungray-coding the packed result gives, byte for byte, what
SPRLIN gives from the same descriptor, and so does ungray-coding and then gray-coding. -/
def Obligations.GrayCodeRoundTrip : Prop :=
  ∀ (first second : Instr), (first = .sprgray ∧ second = .sprungray) ∨ (first = .sprungray ∧ second = .sprgray) →
    ∀ s t u v l : State, memWf s.dmem = true → memWf u.dmem = true → exec first s = .next t → t.status.errcode = 0 →
      readsOutputOf s t u → exec second u = .next v → v.status.errcode = 0 → exec .sprlin s = .next l →
      ∀ j < s.snap.args[2].toNat * s.snap.args[3].toNat,
        memRead v.dmem (u.snap.args[1].toNat + j) = memRead l.dmem (s.snap.args[1].toNat + j)

/-- 42_sprite_packers.md R234 item 3: SPRZZ is SPRGRAY, and SPRLRL is SPRLIN, with every odd output row byte-reversed. -/
def Obligations.ZigzagReversesOddRows : Prop :=
  ∀ (zig plain : Instr), (zig = .sprzz ∧ plain = .sprgray) ∨ (zig = .sprlrl ∧ plain = .sprlin) →
    ∀ s t u : State, memWf s.dmem = true → exec zig s = .next t → exec plain s = .next u → t.status.errcode = 0 →
      u.status.errcode = 0 ∧ ∀ dst w h : Nat, dst = s.snap.args[1].toNat → w = s.snap.args[2].toNat →
        h = s.snap.args[3].toNat → ∀ r < h, ∀ c < w,
          memRead t.dmem (dst + r * w + c) = memRead u.dmem (dst + r * w + (if r % 2 = 1 then w - 1 - c else c))

/-- 42_sprite_packers.md R234 item 4: TILES with one full-size tile writes what the row-order command of its directions
writes. -/
def Obligations.SingleTileEqualsRowOrder : Prop :=
  ∀ (hdir : HDir) (vdir : VDir) (plain : Instr),
    (hdir = .leftToRight ∧ vdir = .topToBottom ∧ plain = .sprlin) ∨
      (hdir = .leftToRight ∧ vdir = .grayCodeFromTop ∧ plain = .sprgray) ∨
      (hdir = .startFromLeftAndFlip ∧ vdir = .topToBottom ∧ plain = .sprlrl) ∨
      (hdir = .startFromLeftAndFlip ∧ vdir = .grayCodeFromTop ∧ plain = .sprzz) →
    ∀ s t u : State, memWf s.dmem = true →
      TileParameters s.snap s.snap.args[2].toNat s.snap.args[3].toNat s.snap.args[2].toNat s.snap.args[3].toNat 1 1 →
      exec (.tiles hdir vdir) s = .next t → exec plain s = .next u →
      (t.status.errcode = u.status.errcode ∧ ∀ a, memRead t.dmem a = memRead u.dmem a)

/-! ### The stored registers -/

/-- Every stored register of the map reads its own field, at its own offset, in every state: CTRL, STATUS (the word of
Obligations.StatusWordHasItsFields), CMD, ARG0 to ARG7, RES0, RES1, ERRINFO0 to ERRINFO3, DA, SCRDIM, PAL0 to PAL16
(10_state.md R23, R24, R32 to R36, R39, R43). -/
def Obligations.StoredRegistersReadTheirFields : Prop :=
  ∀ s : State,
    readReg s (regAt 0x04) = (if s.ie then 1 else 0) ∧ readReg s (regAt 0x08) = statusWord s.status ∧
    readReg s (regAt 0x0C) = s.cmd ∧ (∀ n : Fin 8, readReg s (regAt (0x10 + 4 * n.val)) = s.args[n]) ∧
    readReg s (regAt 0x30) = s.res0 ∧ readReg s (regAt 0x34) = s.res1 ∧
    (∀ n : Fin 4, readReg s (regAt (0x38 + 4 * n.val)) = s.errinfo[n]) ∧
    (readReg s (regAt 0x48)).toNat = s.da.toNat ∧ (readReg s (regAt 0x50)).toNat = s.scrdim.toNat ∧
    ∀ p : Fin 17, (readReg s (regAt (0x80 + 4 * p.val))).toNat =
      128 * s.pal[p].valid.toNat + s.pal[p].ink.toNat
end

