-- ==== Sys2Proof/Laws/Memory.lean ====
section
/-! SUPPORT. The laws of memory: read after write, the canonical form kept by every memory operation, and equal memories
being equal data. -/

namespace Sys2Proof.Laws

open Sys2Proof.Machine

@[simp] theorem memRead_nil (a : Nat) : memRead [] a = unlistedByte := rfl

theorem memWfFrom_cons {lo k : Nat} {v : Byte} {m : Memory} :
    memWfFrom lo ((k, v) :: m) = true ↔ lo ≤ k ∧ v ≠ unlistedByte ∧ memWfFrom (k + 1) m = true := by
  simp [memWfFrom, and_assoc]

/-- A lower bound may be lowered. -/
theorem memWfFrom_mono {lo lo' : Nat} {m : Memory} (h : memWfFrom lo m = true) (hle : lo' ≤ lo) :
    memWfFrom lo' m = true := by
  cases m with
  | nil => rfl
  | cons c rest =>
    obtain ⟨k, v⟩ := c
    obtain ⟨h1, h2, h3⟩ := memWfFrom_cons.1 h
    exact memWfFrom_cons.2 ⟨by omega, h2, h3⟩

/-- Below the least listed address nothing is listed. -/
theorem memRead_below {lo a : Nat} {m : Memory} (h : memWfFrom lo m = true) (ha : a < lo) :
    memRead m a = unlistedByte := by
  induction m generalizing lo with
  | nil => rfl
  | cons c rest ih =>
    obtain ⟨k, v⟩ := c
    obtain ⟨h1, -, h3⟩ := memWfFrom_cons.1 h
    have hne : k ≠ a := by omega
    simp only [memRead, if_neg hne]
    exact ih h3 (by omega)

theorem memCons_wf {lo a : Nat} {b : Byte} {m : Memory} (hlo : lo ≤ a) (h : memWfFrom (a + 1) m = true) :
    memWfFrom lo (memCons a b m) = true := by
  unfold memCons
  split
  · exact memWfFrom_mono h (by omega)
  · exact memWfFrom_cons.2 ⟨hlo, ‹_›, h⟩

theorem memRead_memCons {a x : Nat} {b : Byte} {m : Memory} (h : memWfFrom (a + 1) m = true) :
    memRead (memCons a b m) x = if x = a then b else memRead m x := by
  unfold memCons
  split
  next hb =>
    split
    next hx => rw [hb, hx]; exact memRead_below h (by omega)
    next => rfl
  next hb =>
    simp only [memRead]
    by_cases hx : x = a
    · simp [hx]
    · rw [if_neg hx, if_neg (Ne.symm hx)]

theorem memWfFrom_memWrite {lo a : Nat} {b : Byte} {m : Memory} (h : memWfFrom lo m = true) (ha : lo ≤ a) :
    memWfFrom lo (memWrite m a b) = true := by
  induction m generalizing lo with
  | nil => exact memCons_wf ha rfl
  | cons c rest ih =>
    obtain ⟨k, v⟩ := c
    obtain ⟨h1, h2, h3⟩ := memWfFrom_cons.1 h
    simp only [memWrite]
    split
    next hlt => exact memCons_wf ha (memWfFrom_cons.2 ⟨hlt, h2, h3⟩)
    next hge =>
      split
      next heq => subst heq; exact memCons_wf ha h3
      next hne => exact memWfFrom_cons.2 ⟨h1, h2, ih h3 (by omega)⟩

/-- A write keeps the canonical form. -/
theorem memWf_memWrite {m : Memory} (h : memWf m = true) (a : Nat) (b : Byte) : memWf (memWrite m a b) = true :=
  memWfFrom_memWrite h (Nat.zero_le a)

theorem memRead_memWrite_from {lo : Nat} {m : Memory} (h : memWfFrom lo m = true) (a x : Nat) (b : Byte) :
    memRead (memWrite m a b) x = if x = a then b else memRead m x := by
  induction m generalizing lo with
  | nil => exact memRead_memCons rfl
  | cons c rest ih =>
    obtain ⟨k, v⟩ := c
    obtain ⟨h1, h2, h3⟩ := memWfFrom_cons.1 h
    simp only [memWrite]
    split
    next hlt => exact memRead_memCons (memWfFrom_cons.2 ⟨hlt, h2, h3⟩)
    next hge =>
      split
      next heq =>
        subst heq
        rw [memRead_memCons h3]
        by_cases hx : x = a
        · simp [hx]
        · rw [if_neg hx, if_neg hx, memRead, if_neg (Ne.symm hx)]
      next hne =>
        simp only [memRead]
        by_cases hk : k = x
        · rw [if_pos hk, if_neg (by omega), if_pos hk]
        · rw [if_neg hk, if_neg hk, ih h3]

/-- Reading after one write: the written byte at its address, every other byte as before. -/
theorem memRead_memWrite {m : Memory} (h : memWf m = true) (a x : Nat) (b : Byte) :
    memRead (memWrite m a b) x = if x = a then b else memRead m x :=
  memRead_memWrite_from h a x b

@[simp] theorem memWriteAll_nil (m : Memory) : memWriteAll m [] = m := rfl

@[simp] theorem memWriteAll_cons (m : Memory) (c : Host.Cell) (ws : List Host.Cell) :
    memWriteAll m (c :: ws) = memWriteAll (memWrite m c.1 c.2) ws := rfl

theorem memWriteAll_append (m : Memory) (ws vs : List Host.Cell) :
    memWriteAll m (ws ++ vs) = memWriteAll (memWriteAll m ws) vs := by
  simp [memWriteAll, List.foldl_append]

/-- A command's writes keep the canonical form. -/
theorem memWf_memWriteAll {m : Memory} (h : memWf m = true) (ws : List Host.Cell) :
    memWf (memWriteAll m ws) = true := by
  induction ws generalizing m with
  | nil => exact h
  | cons c ws ih => exact ih (memWf_memWrite h c.1 c.2)

/-- A byte no write names is as before. -/
theorem memRead_memWriteAll_of_not_mem {m : Memory} (h : memWf m = true) {ws : List Host.Cell} {x : Nat}
    (hx : ∀ c ∈ ws, c.1 ≠ x) : memRead (memWriteAll m ws) x = memRead m x := by
  induction ws generalizing m with
  | nil => rfl
  | cons c ws ih =>
    rw [memWriteAll_cons, ih (memWf_memWrite h c.1 c.2) fun d hd => hx d (List.mem_cons_of_mem c hd),
      memRead_memWrite h, if_neg (Ne.symm (hx c List.mem_cons_self))]

/-- A byte some write names holds what those writes agree on. -/
theorem memRead_memWriteAll_of_mem {m : Memory} (h : memWf m = true) {ws : List Host.Cell} {x : Nat} {b : Byte}
    (hmem : (x, b) ∈ ws) (hall : ∀ c ∈ ws, c.1 = x → c.2 = b) : memRead (memWriteAll m ws) x = b := by
  induction ws generalizing m with
  | nil => simp at hmem
  | cons c ws ih =>
    by_cases hlater : ∃ d ∈ ws, d.1 = x
    · obtain ⟨d, hd, hdx⟩ := hlater
      have hdb : d.2 = b := hall d (List.mem_cons_of_mem c hd) hdx
      have hmem' : (x, b) ∈ ws := by rw [← hdx, ← hdb]; exact hd
      exact ih (memWf_memWrite h c.1 c.2) hmem' fun e he => hall e (List.mem_cons_of_mem c he)
    · have hnone : ∀ d ∈ ws, d.1 ≠ x := fun d hd hdx => hlater ⟨d, hd, hdx⟩
      have hc : c = (x, b) := by
        rcases List.mem_cons.1 hmem with h' | h'
        · exact h'.symm
        · exact absurd rfl (hnone _ h')
      rw [memWriteAll_cons, memRead_memWriteAll_of_not_mem (memWf_memWrite h c.1 c.2) hnone, memRead_memWrite h, hc]
      simp

theorem memWithin_cons {size : Nat} {c : Host.Cell} {m : Memory} :
    memWithin size (c :: m) = true ↔ c.1 < size ∧ memWithin size m = true := by
  simp [memWithin]

/-- A write inside the memory keeps every listed address inside it. -/
theorem memWithin_memWrite {size a : Nat} {b : Byte} {m : Memory} (h : memWithin size m = true) (ha : a < size) :
    memWithin size (memWrite m a b) = true := by
  induction m with
  | nil => unfold memWrite memCons; split <;> simp [memWithin, ha]
  | cons c rest ih =>
    obtain ⟨k, v⟩ := c
    obtain ⟨h1, h2⟩ := memWithin_cons.1 h
    simp only [memWrite, memCons]
    split
    · split
      · exact h
      · exact memWithin_cons.2 ⟨ha, h⟩
    · split
      · split
        · exact h2
        · exact memWithin_cons.2 ⟨ha, h2⟩
      · exact memWithin_cons.2 ⟨h1, ih h2⟩

/-- A command's writes inside the memory keep every listed address inside it. -/
theorem memWithin_memWriteAll {size : Nat} {m : Memory} (h : memWithin size m = true) {ws : List Host.Cell}
    (hws : ∀ c ∈ ws, c.1 < size) : memWithin size (memWriteAll m ws) = true := by
  induction ws generalizing m with
  | nil => exact h
  | cons c ws ih =>
    exact ih (memWithin_memWrite h (hws c List.mem_cons_self)) fun d hd => hws d (List.mem_cons_of_mem c hd)

/-- Outside the memory nothing is listed. -/
theorem memRead_of_within {size x : Nat} {m : Memory} (h : memWithin size m = true) (hx : size ≤ x) :
    memRead m x = unlistedByte := by
  induction m with
  | nil => rfl
  | cons c rest ih =>
    obtain ⟨k, v⟩ := c
    obtain ⟨h1, h2⟩ := memWithin_cons.1 h
    simp only at h1
    rw [memRead, if_neg (by omega), ih h2]

/-- The memory that holds given contents is canonical. -/
theorem memWf_memOfCells (size : Nat) (cs : List Host.Cell) : memWf (memOfCells size cs) = true :=
  memWf_memWriteAll rfl _

/-- The memory that holds given contents lies inside its space. -/
theorem memWithin_memOfCells (size : Nat) (cs : List Host.Cell) : memWithin size (memOfCells size cs) = true :=
  memWithin_memWriteAll rfl fun c hc => by simpa using (List.mem_filter.1 hc).2

theorem memRead_eq_from {lo : Nat} {m n : Memory} (hm : memWfFrom lo m = true) (hn : memWfFrom lo n = true)
    (h : ∀ a, memRead m a = memRead n a) : m = n := by
  induction m generalizing lo n with
  | nil =>
    cases n with
    | nil => rfl
    | cons c rest =>
      obtain ⟨k, v⟩ := c
      have := h k
      simp [memRead] at this
      exact absurd this.symm (memWfFrom_cons.1 hn).2.1
  | cons c rest ih =>
    obtain ⟨k, v⟩ := c
    obtain ⟨-, hv, hrest⟩ := memWfFrom_cons.1 hm
    cases n with
    | nil =>
      have := h k
      simp [memRead] at this
      exact absurd this hv
    | cons d rest' =>
      obtain ⟨k', v'⟩ := d
      obtain ⟨-, hv', hrest'⟩ := memWfFrom_cons.1 hn
      have hk : k = k' := by
        rcases Nat.lt_trichotomy k k' with hlt | heq | hgt
        · have := h k
          rw [memRead, if_pos rfl, memRead, if_neg (by omega), memRead_below hrest' (by omega)] at this
          exact absurd this hv
        · exact heq
        · have := h k'
          rw [memRead, if_neg (by omega), memRead_below hrest (by omega), memRead, if_pos rfl] at this
          exact absurd this.symm hv'
      subst hk
      have hvv : v = v' := by simpa [memRead] using h k
      subst hvv
      have htail : rest = rest' := by
        refine ih hrest hrest' fun a => ?_
        by_cases ha : k = a
        · subst ha
          rw [memRead_below hrest (by omega), memRead_below hrest' (by omega)]
        · simpa [memRead, ha] using h a
      rw [htail]

/-- Canonical memories that read alike everywhere are equal data. -/
theorem memory_eq_of_reads {m n : Memory} (hm : memWf m = true) (hn : memWf n = true)
    (h : ∀ a, memRead m a = memRead n a) : m = n :=
  memRead_eq_from hm hn h

/-- The writes of a packed output: byte j of n goes to dst + j. -/
theorem memRead_packed {m : Memory} (h : memWf m = true) (dst n x : Nat) (f : Nat → Byte) :
    memRead (memWriteAll m ((List.range n).map fun j => (dst + j, f j))) x =
      if dst ≤ x ∧ x < dst + n then f (x - dst) else memRead m x := by
  split
  next hx =>
    refine memRead_memWriteAll_of_mem h (List.mem_map.2 ⟨x - dst, by simp; omega, by simp; omega⟩) ?_
    rintro c hc rfl
    obtain ⟨j, -, rfl⟩ := List.mem_map.1 hc
    simp
  next hx =>
    refine memRead_memWriteAll_of_not_mem h fun c hc => ?_
    obtain ⟨j, hj, rfl⟩ := List.mem_map.1 hc
    simp at hj ⊢
    omega

end Sys2Proof.Laws
end

