-- ==== Sys2Proof/Laws/State.lean ====
section
/-! SUPPORT. One lemma per field for each shared operation on State, true by rfl and tagged simp, so that no later proof
unfolds a record update. -/

namespace Sys2Proof.Laws

open Sys2Proof Sys2Proof.Machine

/-! ### acceptCommand -/

@[simp] theorem acceptCommand_ie (s : State) (v : Word) : (acceptCommand s v).ie = s.ie := rfl
@[simp] theorem acceptCommand_status (s : State) (v : Word) :
    (acceptCommand s v).status = { s.status with busy := true } := rfl
@[simp] theorem acceptCommand_cmd (s : State) (v : Word) : (acceptCommand s v).cmd = v := rfl
@[simp] theorem acceptCommand_args (s : State) (v : Word) : (acceptCommand s v).args = s.args := rfl
@[simp] theorem acceptCommand_res0 (s : State) (v : Word) : (acceptCommand s v).res0 = s.res0 := rfl
@[simp] theorem acceptCommand_res1 (s : State) (v : Word) : (acceptCommand s v).res1 = s.res1 := rfl
@[simp] theorem acceptCommand_errinfo (s : State) (v : Word) : (acceptCommand s v).errinfo = s.errinfo := rfl
@[simp] theorem acceptCommand_da (s : State) (v : Word) : (acceptCommand s v).da = s.da := rfl
@[simp] theorem acceptCommand_scrdim (s : State) (v : Word) : (acceptCommand s v).scrdim = s.scrdim := rfl
@[simp] theorem acceptCommand_pal (s : State) (v : Word) : (acceptCommand s v).pal = s.pal := rfl
@[simp] theorem acceptCommand_pending (s : State) (v : Word) : (acceptCommand s v).pending = true := rfl
@[simp] theorem acceptCommand_snap (s : State) (v : Word) :
    (acceptCommand s v).snap = takeSnapshot { s with cmd := v } := rfl
@[simp] theorem acceptCommand_dmem (s : State) (v : Word) : (acceptCommand s v).dmem = s.dmem := rfl
@[simp] theorem acceptCommand_pmem (s : State) (v : Word) : (acceptCommand s v).pmem = s.pmem := rfl
@[simp] theorem acceptCommand_cfg (s : State) (v : Word) : (acceptCommand s v).cfg = s.cfg := rfl
@[simp] theorem acceptCommand_schedule (s : State) (v : Word) : (acceptCommand s v).schedule = s.schedule := rfl
@[simp] theorem acceptCommand_rdata (s : State) (v : Word) : (acceptCommand s v).rdata = s.rdata := rfl
@[simp] theorem acceptCommand_freeCount (s : State) (v : Word) : (acceptCommand s v).freeCount = s.freeCount := rfl

/-! ### commitCommand -/

@[simp] theorem commitCommand_ie (s : State) (fx : Effects) : (commitCommand s fx).ie = s.ie := rfl
@[simp] theorem commitCommand_status (s : State) (fx : Effects) :
    (commitCommand s fx).status = statusSuccess s.status fx.warnings fx.memblk := rfl
@[simp] theorem commitCommand_cmd (s : State) (fx : Effects) : (commitCommand s fx).cmd = s.cmd := rfl
@[simp] theorem commitCommand_args (s : State) (fx : Effects) : (commitCommand s fx).args = s.args := rfl
@[simp] theorem commitCommand_res0 (s : State) (fx : Effects) : (commitCommand s fx).res0 = fx.res0.getD s.res0 := rfl
@[simp] theorem commitCommand_res1 (s : State) (fx : Effects) : (commitCommand s fx).res1 = fx.res1.getD s.res1 := rfl
@[simp] theorem commitCommand_errinfo (s : State) (fx : Effects) : (commitCommand s fx).errinfo = s.errinfo := rfl
@[simp] theorem commitCommand_da (s : State) (fx : Effects) : (commitCommand s fx).da = fx.da.getD s.da := rfl
@[simp] theorem commitCommand_scrdim (s : State) (fx : Effects) : (commitCommand s fx).scrdim = s.scrdim := rfl
@[simp] theorem commitCommand_pal (s : State) (fx : Effects) : (commitCommand s fx).pal = s.pal := rfl
@[simp] theorem commitCommand_pending (s : State) (fx : Effects) : (commitCommand s fx).pending = false := rfl
@[simp] theorem commitCommand_snap (s : State) (fx : Effects) : (commitCommand s fx).snap = Snapshot.discarded := rfl
@[simp] theorem commitCommand_dmem (s : State) (fx : Effects) :
    (commitCommand s fx).dmem = memWriteAll s.dmem fx.dmem := rfl
@[simp] theorem commitCommand_pmem (s : State) (fx : Effects) :
    (commitCommand s fx).pmem = memWriteAll (if fx.clearPmem then [] else s.pmem) fx.pmem := rfl
@[simp] theorem commitCommand_cfg (s : State) (fx : Effects) : (commitCommand s fx).cfg = s.cfg := rfl
@[simp] theorem commitCommand_schedule (s : State) (fx : Effects) : (commitCommand s fx).schedule = s.schedule := rfl
@[simp] theorem commitCommand_rdata (s : State) (fx : Effects) : (commitCommand s fx).rdata = s.rdata := rfl
@[simp] theorem commitCommand_freeCount (s : State) (fx : Effects) :
    (commitCommand s fx).freeCount = s.freeCount + fx.freeUsed := rfl

/-! ### recordError -/

@[simp] theorem recordError_ie (s : State) (e : CmdError) : (recordError s e).ie = s.ie := rfl
@[simp] theorem recordError_status (s : State) (e : CmdError) :
    (recordError s e).status = statusError s.status (errorCode e) := rfl
@[simp] theorem recordError_cmd (s : State) (e : CmdError) : (recordError s e).cmd = s.cmd := rfl
@[simp] theorem recordError_args (s : State) (e : CmdError) : (recordError s e).args = s.args := rfl
@[simp] theorem recordError_res0 (s : State) (e : CmdError) : (recordError s e).res0 = s.res0 := rfl
@[simp] theorem recordError_res1 (s : State) (e : CmdError) : (recordError s e).res1 = s.res1 := rfl
@[simp] theorem recordError_errinfo (s : State) (e : CmdError) : (recordError s e).errinfo = errorInfo e := rfl
@[simp] theorem recordError_da (s : State) (e : CmdError) : (recordError s e).da = s.da := rfl
@[simp] theorem recordError_scrdim (s : State) (e : CmdError) : (recordError s e).scrdim = s.scrdim := rfl
@[simp] theorem recordError_pal (s : State) (e : CmdError) : (recordError s e).pal = s.pal := rfl
@[simp] theorem recordError_pending (s : State) (e : CmdError) : (recordError s e).pending = false := rfl
@[simp] theorem recordError_snap (s : State) (e : CmdError) : (recordError s e).snap = Snapshot.discarded := rfl
@[simp] theorem recordError_dmem (s : State) (e : CmdError) : (recordError s e).dmem = s.dmem := rfl
@[simp] theorem recordError_pmem (s : State) (e : CmdError) : (recordError s e).pmem = s.pmem := rfl
@[simp] theorem recordError_cfg (s : State) (e : CmdError) : (recordError s e).cfg = s.cfg := rfl
@[simp] theorem recordError_schedule (s : State) (e : CmdError) : (recordError s e).schedule = s.schedule := rfl
@[simp] theorem recordError_rdata (s : State) (e : CmdError) : (recordError s e).rdata = s.rdata := rfl
@[simp] theorem recordError_freeCount (s : State) (e : CmdError) : (recordError s e).freeCount = s.freeCount := rfl

/-! ### resetRegisters -/

@[simp] theorem resetRegisters_ie (s : State) : (resetRegisters s).ie = false := rfl
@[simp] theorem resetRegisters_status (s : State) : (resetRegisters s).status = Status.reset := rfl
@[simp] theorem resetRegisters_cmd (s : State) : (resetRegisters s).cmd = 0 := rfl
@[simp] theorem resetRegisters_args (s : State) : (resetRegisters s).args = Vector.replicate 8 0 := rfl
@[simp] theorem resetRegisters_res0 (s : State) : (resetRegisters s).res0 = 0 := rfl
@[simp] theorem resetRegisters_res1 (s : State) : (resetRegisters s).res1 = 0 := rfl
@[simp] theorem resetRegisters_errinfo (s : State) : (resetRegisters s).errinfo = Vector.replicate 4 0 := rfl
@[simp] theorem resetRegisters_da (s : State) : (resetRegisters s).da = 0 := rfl
@[simp] theorem resetRegisters_scrdim (s : State) : (resetRegisters s).scrdim = 0 := rfl
@[simp] theorem resetRegisters_pal (s : State) : (resetRegisters s).pal = Vector.replicate 17 PalEntry.unset := rfl
@[simp] theorem resetRegisters_pending (s : State) : (resetRegisters s).pending = false := rfl
@[simp] theorem resetRegisters_snap (s : State) : (resetRegisters s).snap = Snapshot.discarded := rfl
@[simp] theorem resetRegisters_dmem (s : State) : (resetRegisters s).dmem = s.dmem := rfl
@[simp] theorem resetRegisters_pmem (s : State) : (resetRegisters s).pmem = s.pmem := rfl
@[simp] theorem resetRegisters_cfg (s : State) : (resetRegisters s).cfg = s.cfg := rfl
@[simp] theorem resetRegisters_schedule (s : State) : (resetRegisters s).schedule = s.schedule := rfl
@[simp] theorem resetRegisters_rdata (s : State) : (resetRegisters s).rdata = s.rdata := rfl
@[simp] theorem resetRegisters_freeCount (s : State) : (resetRegisters s).freeCount = s.freeCount := rfl

/-! ### hardReset -/

@[simp] theorem hardReset_ie (s : State) (dmem pmem : List Host.Cell) : (hardReset s dmem pmem).ie = false := rfl
@[simp] theorem hardReset_status (s : State) (dmem pmem : List Host.Cell) :
    (hardReset s dmem pmem).status = Status.reset := rfl
@[simp] theorem hardReset_cmd (s : State) (dmem pmem : List Host.Cell) : (hardReset s dmem pmem).cmd = 0 := rfl
@[simp] theorem hardReset_args (s : State) (dmem pmem : List Host.Cell) :
    (hardReset s dmem pmem).args = Vector.replicate 8 0 := rfl
@[simp] theorem hardReset_res0 (s : State) (dmem pmem : List Host.Cell) : (hardReset s dmem pmem).res0 = 0 := rfl
@[simp] theorem hardReset_res1 (s : State) (dmem pmem : List Host.Cell) : (hardReset s dmem pmem).res1 = 0 := rfl
@[simp] theorem hardReset_errinfo (s : State) (dmem pmem : List Host.Cell) :
    (hardReset s dmem pmem).errinfo = Vector.replicate 4 0 := rfl
@[simp] theorem hardReset_da (s : State) (dmem pmem : List Host.Cell) : (hardReset s dmem pmem).da = 0 := rfl
@[simp] theorem hardReset_scrdim (s : State) (dmem pmem : List Host.Cell) : (hardReset s dmem pmem).scrdim = 0 := rfl
@[simp] theorem hardReset_pal (s : State) (dmem pmem : List Host.Cell) :
    (hardReset s dmem pmem).pal = Vector.replicate 17 PalEntry.unset := rfl
@[simp] theorem hardReset_pending (s : State) (dmem pmem : List Host.Cell) :
    (hardReset s dmem pmem).pending = false := rfl
@[simp] theorem hardReset_snap (s : State) (dmem pmem : List Host.Cell) :
    (hardReset s dmem pmem).snap = Snapshot.discarded := rfl
@[simp] theorem hardReset_dmem (s : State) (dmem pmem : List Host.Cell) :
    (hardReset s dmem pmem).dmem = memOfCells s.cfg.dmemSize.toNat dmem := rfl
@[simp] theorem hardReset_pmem (s : State) (dmem pmem : List Host.Cell) :
    (hardReset s dmem pmem).pmem = memOfCells pmemSize pmem := rfl
@[simp] theorem hardReset_cfg (s : State) (dmem pmem : List Host.Cell) : (hardReset s dmem pmem).cfg = s.cfg := rfl
@[simp] theorem hardReset_schedule (s : State) (dmem pmem : List Host.Cell) :
    (hardReset s dmem pmem).schedule = s.schedule := rfl
@[simp] theorem hardReset_rdata (s : State) (dmem pmem : List Host.Cell) :
    (hardReset s dmem pmem).rdata = s.rdata := rfl
@[simp] theorem hardReset_freeCount (s : State) (dmem pmem : List Host.Cell) :
    (hardReset s dmem pmem).freeCount = s.freeCount := rfl

/-! ### resetWith -/

@[simp] theorem resetWith_ie (cfg : Config) (dmem pmem : Memory) : (State.resetWith cfg dmem pmem).ie = false := rfl
@[simp] theorem resetWith_status (cfg : Config) (dmem pmem : Memory) :
    (State.resetWith cfg dmem pmem).status = Status.reset := rfl
@[simp] theorem resetWith_cmd (cfg : Config) (dmem pmem : Memory) : (State.resetWith cfg dmem pmem).cmd = 0 := rfl
@[simp] theorem resetWith_args (cfg : Config) (dmem pmem : Memory) :
    (State.resetWith cfg dmem pmem).args = Vector.replicate 8 0 := rfl
@[simp] theorem resetWith_res0 (cfg : Config) (dmem pmem : Memory) : (State.resetWith cfg dmem pmem).res0 = 0 := rfl
@[simp] theorem resetWith_res1 (cfg : Config) (dmem pmem : Memory) : (State.resetWith cfg dmem pmem).res1 = 0 := rfl
@[simp] theorem resetWith_errinfo (cfg : Config) (dmem pmem : Memory) :
    (State.resetWith cfg dmem pmem).errinfo = Vector.replicate 4 0 := rfl
@[simp] theorem resetWith_da (cfg : Config) (dmem pmem : Memory) : (State.resetWith cfg dmem pmem).da = 0 := rfl
@[simp] theorem resetWith_scrdim (cfg : Config) (dmem pmem : Memory) :
    (State.resetWith cfg dmem pmem).scrdim = 0 := rfl
@[simp] theorem resetWith_pal (cfg : Config) (dmem pmem : Memory) :
    (State.resetWith cfg dmem pmem).pal = Vector.replicate 17 PalEntry.unset := rfl
@[simp] theorem resetWith_pending (cfg : Config) (dmem pmem : Memory) :
    (State.resetWith cfg dmem pmem).pending = false := rfl
@[simp] theorem resetWith_snap (cfg : Config) (dmem pmem : Memory) :
    (State.resetWith cfg dmem pmem).snap = Snapshot.discarded := rfl
@[simp] theorem resetWith_dmem (cfg : Config) (dmem pmem : Memory) :
    (State.resetWith cfg dmem pmem).dmem = dmem := rfl
@[simp] theorem resetWith_pmem (cfg : Config) (dmem pmem : Memory) :
    (State.resetWith cfg dmem pmem).pmem = pmem := rfl
@[simp] theorem resetWith_cfg (cfg : Config) (dmem pmem : Memory) : (State.resetWith cfg dmem pmem).cfg = cfg := rfl
@[simp] theorem resetWith_schedule (cfg : Config) (dmem pmem : Memory) :
    (State.resetWith cfg dmem pmem).schedule = [] := rfl
@[simp] theorem resetWith_rdata (cfg : Config) (dmem pmem : Memory) : (State.resetWith cfg dmem pmem).rdata = 0 := rfl
@[simp] theorem resetWith_freeCount (cfg : Config) (dmem pmem : Memory) :
    (State.resetWith cfg dmem pmem).freeCount = 0 := rfl

/-! ### withFetchWord -/

@[simp] theorem withFetchWord_ie (s : State) (nbits w : Nat) : (s.withFetchWord nbits w).ie = s.ie := rfl
@[simp] theorem withFetchWord_status (s : State) (nbits w : Nat) :
    (s.withFetchWord nbits w).status = { s.status with busy := true } := rfl
@[simp] theorem withFetchWord_cmd (s : State) (nbits w : Nat) :
    (s.withFetchWord nbits w).cmd = BitVec.ofNat 32 (w % 2 ^ nbits) := rfl
@[simp] theorem withFetchWord_args (s : State) (nbits w : Nat) : (s.withFetchWord nbits w).args = s.args := rfl
@[simp] theorem withFetchWord_res0 (s : State) (nbits w : Nat) : (s.withFetchWord nbits w).res0 = s.res0 := rfl
@[simp] theorem withFetchWord_res1 (s : State) (nbits w : Nat) : (s.withFetchWord nbits w).res1 = s.res1 := rfl
@[simp] theorem withFetchWord_errinfo (s : State) (nbits w : Nat) :
    (s.withFetchWord nbits w).errinfo = s.errinfo := rfl
@[simp] theorem withFetchWord_da (s : State) (nbits w : Nat) : (s.withFetchWord nbits w).da = s.da := rfl
@[simp] theorem withFetchWord_scrdim (s : State) (nbits w : Nat) : (s.withFetchWord nbits w).scrdim = s.scrdim := rfl
@[simp] theorem withFetchWord_pal (s : State) (nbits w : Nat) : (s.withFetchWord nbits w).pal = s.pal := rfl
@[simp] theorem withFetchWord_pending (s : State) (nbits w : Nat) : (s.withFetchWord nbits w).pending = true := rfl
@[simp] theorem withFetchWord_snap (s : State) (nbits w : Nat) :
    (s.withFetchWord nbits w).snap = takeSnapshot { s with cmd := BitVec.ofNat 32 (w % 2 ^ nbits) } := rfl
@[simp] theorem withFetchWord_dmem (s : State) (nbits w : Nat) : (s.withFetchWord nbits w).dmem = s.dmem := rfl
@[simp] theorem withFetchWord_pmem (s : State) (nbits w : Nat) : (s.withFetchWord nbits w).pmem = s.pmem := rfl
@[simp] theorem withFetchWord_cfg (s : State) (nbits w : Nat) : (s.withFetchWord nbits w).cfg = s.cfg := rfl
@[simp] theorem withFetchWord_schedule (s : State) (nbits w : Nat) :
    (s.withFetchWord nbits w).schedule = Event.engine :: s.schedule := rfl
@[simp] theorem withFetchWord_rdata (s : State) (nbits w : Nat) : (s.withFetchWord nbits w).rdata = s.rdata := rfl
@[simp] theorem withFetchWord_freeCount (s : State) (nbits w : Nat) :
    (s.withFetchWord nbits w).freeCount = s.freeCount := rfl

/-! ### completeCommand -/

@[simp] theorem completeCommand_raise (s : State) (e : CmdError) : completeCommand s (.raise e) = recordError s e := rfl
@[simp] theorem completeCommand_commit (s : State) (fx : Effects) :
    completeCommand s (.commit fx) = commitCommand s fx := rfl

/-! ### writeByte in dmem -/

@[simp] theorem writeByte_dmem_ie (s : State) (a : Nat) (b : Byte) : (writeByte s .dmem a b).ie = s.ie := rfl
@[simp] theorem writeByte_dmem_status (s : State) (a : Nat) (b : Byte) :
    (writeByte s .dmem a b).status = s.status := rfl
@[simp] theorem writeByte_dmem_cmd (s : State) (a : Nat) (b : Byte) : (writeByte s .dmem a b).cmd = s.cmd := rfl
@[simp] theorem writeByte_dmem_args (s : State) (a : Nat) (b : Byte) : (writeByte s .dmem a b).args = s.args := rfl
@[simp] theorem writeByte_dmem_res0 (s : State) (a : Nat) (b : Byte) : (writeByte s .dmem a b).res0 = s.res0 := rfl
@[simp] theorem writeByte_dmem_res1 (s : State) (a : Nat) (b : Byte) : (writeByte s .dmem a b).res1 = s.res1 := rfl
@[simp] theorem writeByte_dmem_errinfo (s : State) (a : Nat) (b : Byte) :
    (writeByte s .dmem a b).errinfo = s.errinfo := rfl
@[simp] theorem writeByte_dmem_da (s : State) (a : Nat) (b : Byte) : (writeByte s .dmem a b).da = s.da := rfl
@[simp] theorem writeByte_dmem_scrdim (s : State) (a : Nat) (b : Byte) :
    (writeByte s .dmem a b).scrdim = s.scrdim := rfl
@[simp] theorem writeByte_dmem_pal (s : State) (a : Nat) (b : Byte) : (writeByte s .dmem a b).pal = s.pal := rfl
@[simp] theorem writeByte_dmem_pending (s : State) (a : Nat) (b : Byte) :
    (writeByte s .dmem a b).pending = s.pending := rfl
@[simp] theorem writeByte_dmem_snap (s : State) (a : Nat) (b : Byte) : (writeByte s .dmem a b).snap = s.snap := rfl
@[simp] theorem writeByte_dmem_dmem (s : State) (a : Nat) (b : Byte) :
    (writeByte s .dmem a b).dmem = memWrite s.dmem a b := rfl
@[simp] theorem writeByte_dmem_pmem (s : State) (a : Nat) (b : Byte) : (writeByte s .dmem a b).pmem = s.pmem := rfl
@[simp] theorem writeByte_dmem_cfg (s : State) (a : Nat) (b : Byte) : (writeByte s .dmem a b).cfg = s.cfg := rfl
@[simp] theorem writeByte_dmem_schedule (s : State) (a : Nat) (b : Byte) :
    (writeByte s .dmem a b).schedule = s.schedule := rfl
@[simp] theorem writeByte_dmem_rdata (s : State) (a : Nat) (b : Byte) : (writeByte s .dmem a b).rdata = s.rdata := rfl
@[simp] theorem writeByte_dmem_freeCount (s : State) (a : Nat) (b : Byte) :
    (writeByte s .dmem a b).freeCount = s.freeCount := rfl

/-! ### writeByte in pmem -/

@[simp] theorem writeByte_pmem_ie (s : State) (a : Nat) (b : Byte) : (writeByte s .pmem a b).ie = s.ie := rfl
@[simp] theorem writeByte_pmem_status (s : State) (a : Nat) (b : Byte) :
    (writeByte s .pmem a b).status = s.status := rfl
@[simp] theorem writeByte_pmem_cmd (s : State) (a : Nat) (b : Byte) : (writeByte s .pmem a b).cmd = s.cmd := rfl
@[simp] theorem writeByte_pmem_args (s : State) (a : Nat) (b : Byte) : (writeByte s .pmem a b).args = s.args := rfl
@[simp] theorem writeByte_pmem_res0 (s : State) (a : Nat) (b : Byte) : (writeByte s .pmem a b).res0 = s.res0 := rfl
@[simp] theorem writeByte_pmem_res1 (s : State) (a : Nat) (b : Byte) : (writeByte s .pmem a b).res1 = s.res1 := rfl
@[simp] theorem writeByte_pmem_errinfo (s : State) (a : Nat) (b : Byte) :
    (writeByte s .pmem a b).errinfo = s.errinfo := rfl
@[simp] theorem writeByte_pmem_da (s : State) (a : Nat) (b : Byte) : (writeByte s .pmem a b).da = s.da := rfl
@[simp] theorem writeByte_pmem_scrdim (s : State) (a : Nat) (b : Byte) :
    (writeByte s .pmem a b).scrdim = s.scrdim := rfl
@[simp] theorem writeByte_pmem_pal (s : State) (a : Nat) (b : Byte) : (writeByte s .pmem a b).pal = s.pal := rfl
@[simp] theorem writeByte_pmem_pending (s : State) (a : Nat) (b : Byte) :
    (writeByte s .pmem a b).pending = s.pending := rfl
@[simp] theorem writeByte_pmem_snap (s : State) (a : Nat) (b : Byte) : (writeByte s .pmem a b).snap = s.snap := rfl
@[simp] theorem writeByte_pmem_dmem (s : State) (a : Nat) (b : Byte) : (writeByte s .pmem a b).dmem = s.dmem := rfl
@[simp] theorem writeByte_pmem_pmem (s : State) (a : Nat) (b : Byte) :
    (writeByte s .pmem a b).pmem = memWrite s.pmem a b := rfl
@[simp] theorem writeByte_pmem_cfg (s : State) (a : Nat) (b : Byte) : (writeByte s .pmem a b).cfg = s.cfg := rfl
@[simp] theorem writeByte_pmem_schedule (s : State) (a : Nat) (b : Byte) :
    (writeByte s .pmem a b).schedule = s.schedule := rfl
@[simp] theorem writeByte_pmem_rdata (s : State) (a : Nat) (b : Byte) : (writeByte s .pmem a b).rdata = s.rdata := rfl
@[simp] theorem writeByte_pmem_freeCount (s : State) (a : Nat) (b : Byte) :
    (writeByte s .pmem a b).freeCount = s.freeCount := rfl

/-! ### The snapshot -/

@[simp] theorem takeSnapshot_cmd (s : State) : (takeSnapshot s).cmd = s.cmd := rfl
@[simp] theorem takeSnapshot_args (s : State) : (takeSnapshot s).args = s.args := rfl
@[simp] theorem takeSnapshot_da (s : State) : (takeSnapshot s).da = s.da := rfl
@[simp] theorem takeSnapshot_scrdim (s : State) : (takeSnapshot s).scrdim = s.scrdim := rfl
@[simp] theorem takeSnapshot_pal (s : State) : (takeSnapshot s).pal = s.pal := rfl
@[simp] theorem takeSnapshot_dmem (s : State) : (takeSnapshot s).dmem = s.dmem := rfl
@[simp] theorem takeSnapshot_pmem (s : State) : (takeSnapshot s).pmem = s.pmem := rfl

/-! ### STATUS at a completion -/

/-- A completion without a warning writes BUSY, DONE and ERRCODE alone. -/
@[simp] theorem statusSuccess_noWarnings (st : Status) :
    statusSuccess st noWarnings none = { st with busy := false, done := true, errcode := 0 } := by
  simp [statusSuccess, noWarnings]

/-- A register result and DMEM writes, without a warning, are all that such a command commits. -/
theorem commitCommand_buffer (s : State) (r : Word) (ws : List Host.Cell) :
    commitCommand s { res0 := some r, dmem := ws } =
      { s with
        status := { s.status with busy := false, done := true, errcode := 0 }
        res0 := r
        dmem := memWriteAll s.dmem ws
        pending := false
        snap := Snapshot.discarded } := by
  simp [commitCommand, memWriteAll]

end Sys2Proof.Laws
end

