-- ==== Sys2Proof/Laws/Ops.lean ====
section
/-! SUPPORT. For each shared operation, one lemma that says once everything it can do. -/

namespace Sys2Proof.Laws

open Sys2Proof Sys2Proof.Machine

/-- How a command of the table ends in a state: the outcome its meaning completes with. -/
def commandOutcome (i : Instr) (s : State) : CmdOutcome :=
  match i with
  | .nop => runNop
  | .enc0 => runEnc0 s.snap
  | .dec0 => runDec0 s.snap
  | .enc1 => runEnc1 s.snap
  | .dec1 => runDec1 s.snap
  | .enc2 => runEnc2 s.snap
  | .dec2 => runDec2 s.snap
  | .enc3 => runEnc3 s.snap
  | .dec3 => runDec3 s.snap
  | .mix03 => runMix03 s.snap
  | .limit mode => runLimit mode s.snap
  | .rgb2ink => runRgb2ink s.cfg s.snap
  | .ink2rgb => runInk2rgb s.cfg s.snap
  | .ink2ga => runInk2ga s.cfg s.snap
  | .pget => runPget s.snap
  | .pfind => runPfind s.snap
  | .danext => runDanext s.snap
  | .rgbq => runRgbq s.cfg s.snap
  | .i2p => runI2p s.cfg s.snap
  | .p2i => runP2i s.cfg s.snap
  | .penc mode tail => runPenc s.cfg mode tail s.snap
  | .pdec mode => runPdec s.cfg mode s.snap
  | .sprlin => runSprlin s.cfg s.snap
  | .sprgray => runSprgray s.cfg s.snap
  | .sprungray => runSprungray s.cfg s.snap
  | .sprzz => runSprzz s.cfg s.snap
  | .sprlrl => runSprlrl s.cfg s.snap
  | .tiles hdir vdir => runTiles s.cfg (Config.freeWord s.freeCount) hdir vdir s.snap
  | .memblk crop => runMemblk s.cfg crop s.snap

/-- Every command is the completion of its outcome. -/
theorem exec_eq_complete (i : Instr) (s : State) : exec i s = .next (completeCommand s (commandOutcome i s)) := by
  cases i <;> rfl

/-- A completion either records an error or commits. -/
theorem completeCommand_cases (s : State) (o : CmdOutcome) :
    (∃ e, o = .raise e ∧ completeCommand s o = recordError s e) ∨
      (∃ fx, o = .commit fx ∧ completeCommand s o = commitCommand s fx) := by
  cases o with
  | raise e => exact .inl ⟨e, rfl, rfl⟩
  | commit fx => exact .inr ⟨fx, rfl, rfl⟩

/-- The engine's step: a legal word runs its command, another records ILLEGAL_OPCODE. -/
theorem engineStep_cases (s : State) :
    (∃ i, decode s.snap.cmd = .instr i ∧ engineStep s = .next (completeCommand s (commandOutcome i s))) ∨
      (∃ e, decode s.snap.cmd = .illegal e ∧ engineStep s = .next (recordError s (.illegalOpcode s.snap.cmd))) := by
  unfold engineStep
  split
  next i hi => exact .inl ⟨i, hi, exec_eq_complete i s⟩
  next e he => exact .inr ⟨e, he, rfl⟩

/-- The engine's turn completes the pending command with some outcome, or does nothing. -/
theorem engineTurn_cases (s : State) :
    (s.pending = true ∧ engineTurn s = engineStep s) ∨ (s.pending = false ∧ engineTurn s = .next s) := by
  unfold engineTurn
  cases h : s.pending <;> simp

/-- A register access that answers a next state had the form R68 asks for. -/
theorem regAccess_next {offset width : Nat} {k : StepOutcome} {t : State} (h : regAccess offset width k = .next t) :
    width = 4 ∧ offset % 4 = 0 ∧ offset < 0x100 ∧ k = .next t := by
  unfold regAccess at h
  split at h
  · cases h
  next hw =>
    split at h
    · cases h
    next ho => exact ⟨by omega, by omega, by omega, h⟩

/-- A byte access that answers a next state was outside the pending window and inside its space. -/
theorem byteAccess_next {s : State} {space : MemSpace} {a : Nat} {k : StepOutcome} {t : State}
    (h : byteAccess s space a k = .next t) : s.status.busy = false ∧ a < spaceSize s space ∧ k = .next t := by
  unfold byteAccess at h
  split at h
  · cases h
  next hb =>
    split at h
    · cases h
    next ha => exact ⟨by simpa using hb, by omega, h⟩

/-- Every move that answers a next state, by its kind. -/
theorem runEvent_next {ev : Event} {s t : State} (h : runEvent ev s = .next t) :
    (ev = .engine ∧ engineTurn s = .next t) ∨
      (∃ offset, ev = .regRead offset 4 ∧ offset % 4 = 0 ∧ offset < 0x100 ∧
        t = { s with rdata := readReg s (regAt offset) }) ∨
      (∃ offset v, ev = .regWrite offset 4 v ∧ offset % 4 = 0 ∧ offset < 0x100 ∧ t = writeReg s (regAt offset) v) ∨
      (∃ space a, ev = .byteRead space a ∧ s.status.busy = false ∧
        t = { s with rdata := (readByte s space a).setWidth 32 }) ∨
      (∃ space a b, ev = .byteWrite space a b ∧ s.status.busy = false ∧ a < spaceSize s space ∧
        t = writeByte s space a b) ∨
      (∃ d p, ev = .hardReset d p ∧ t = hardReset s d p) := by
  cases ev with
  | engine => exact .inl ⟨rfl, h⟩
  | regRead offset width =>
    obtain ⟨rfl, ho, hl, hk⟩ := regAccess_next h
    exact .inr (.inl ⟨offset, rfl, ho, hl, by simpa using hk.symm⟩)
  | regWrite offset width v =>
    obtain ⟨rfl, ho, hl, hk⟩ := regAccess_next h
    exact .inr (.inr (.inl ⟨offset, v, rfl, ho, hl, by simpa using hk.symm⟩))
  | byteRead space a =>
    obtain ⟨hb, -, hk⟩ := byteAccess_next h
    exact .inr (.inr (.inr (.inl ⟨space, a, rfl, hb, by simpa using hk.symm⟩)))
  | byteWrite space a b =>
    obtain ⟨hb, ha, hk⟩ := byteAccess_next h
    exact .inr (.inr (.inr (.inr (.inl ⟨space, a, b, rfl, hb, ha, by simpa using hk.symm⟩))))
  | hardReset d p => exact .inr (.inr (.inr (.inr (.inr ⟨d, p, rfl, by simpa [runEvent] using h.symm⟩))))

/-- Every step that answers a next state is the engine's turn on an empty schedule, or the first move of it. -/
theorem step_next {s t : State} (h : step s = .next t) :
    (s.schedule = [] ∧ engineTurn s = .next t) ∨
      (∃ ev rest, s.schedule = ev :: rest ∧ runEvent ev { s with schedule := rest } = .next t) := by
  unfold step at h
  split at h
  next hs => exact .inl ⟨hs, h⟩
  next ev rest hs => exact .inr ⟨ev, rest, hs, h⟩

/-- With no move left the engine has its turn. -/
theorem step_empty {s : State} (h : s.schedule = []) : step s = engineTurn s := by simp [step, h]

/-- The first move of the schedule is the step, taken off the schedule. -/
theorem step_cons {s : State} {ev : Event} {rest : List Event} (h : s.schedule = ev :: rest) :
    step s = runEvent ev { s with schedule := rest } := by
  simp [step, h]

/-- A host register write of the form R68 asks for writes the register. -/
theorem step_regWrite {s : State} {offset : Nat} {v : Word} {rest : List Event}
    (h : s.schedule = .regWrite offset 4 v :: rest) (ho : offset % 4 = 0) (hl : offset < 0x100) :
    step s = .next (writeReg { s with schedule := rest } (regAt offset) v) := by
  rw [step_cons h]
  simp [runEvent, regAccess, ho, Nat.not_le.2 hl]

/-- A host register read of the form R68 asks for latches the register. -/
theorem step_regRead {s : State} {offset : Nat} {rest : List Event} (h : s.schedule = .regRead offset 4 :: rest)
    (ho : offset % 4 = 0) (hl : offset < 0x100) :
    step s = .next { s with schedule := rest, rdata := readReg { s with schedule := rest } (regAt offset) } := by
  rw [step_cons h]
  simp [runEvent, regAccess, ho, Nat.not_le.2 hl]

theorem ite_ne {c : Prop} [Decidable c] {a b r : Reg} (ha : a ≠ r) (hb : b ≠ r) : (if c then a else b) ≠ r := by
  split <;> assumption

/-- The register at every offset but the two that the pending window still writes is another register. -/
theorem regAt_ne_ctrl_status {offset : Nat} (h4 : offset ≠ 0x04) (h8 : offset ≠ 0x08) :
    regAt offset ≠ .ctrl ∧ regAt offset ≠ .status := by
  rw [regAt, if_neg h4, if_neg h8]
  constructor <;>
    exact ite_ne nofun <| ite_ne nofun <| ite_ne nofun <| ite_ne nofun <| ite_ne nofun <| ite_ne nofun <|
      ite_ne nofun <| ite_ne nofun <| ite_ne nofun <| ite_ne nofun <| ite_ne nofun <| ite_ne nofun <|
      ite_ne nofun <| ite_ne nofun nofun

/-- What a packed sprite copy does: the first range that is out raises BAD_ADDR, else the copy commits. -/
theorem spriteCopy_cases (cfg : Config) (k : Snapshot) (row : Nat → Nat) (col : Nat → Nat → Nat → Nat) :
    (¬ rangeOk cfg (spriteOf k).src (spriteLen (spriteOf k)) ∧
      spriteCopy cfg k row col =
        .raise (.badAddr (spriteOf k).src ((spriteOf k).src + spriteLen (spriteOf k)) .source)) ∨
    (rangeOk cfg (spriteOf k).src (spriteLen (spriteOf k)) ∧
      ¬ rangeOk cfg (argNat k 1) ((spriteOf k).w * (spriteOf k).h) ∧
      spriteCopy cfg k row col =
        .raise (.badAddr (argNat k 1) (argNat k 1 + (spriteOf k).w * (spriteOf k).h) .destination)) ∨
    (rangeOk cfg (spriteOf k).src (spriteLen (spriteOf k)) ∧
      rangeOk cfg (argNat k 1) ((spriteOf k).w * (spriteOf k).h) ∧
      spriteCopy cfg k row col =
        .commit
          { res0 := some (BitVec.ofNat 32 ((spriteOf k).w * (spriteOf k).h))
            dmem := (List.range (spriteOf k).h).flatMap fun i =>
              (List.range (spriteOf k).w).map fun j =>
                (argNat k 1 + i * (spriteOf k).w + j,
                 spriteByte k (spriteOf k) (row i) (col (spriteOf k).w i j)) }) := by
  by_cases h1 : rangeOk cfg (spriteOf k).src (spriteLen (spriteOf k))
  · by_cases h2 : rangeOk cfg (argNat k 1) ((spriteOf k).w * (spriteOf k).h)
    · exact .inr (.inr ⟨h1, h2, by simp only [spriteCopy]; rw [if_neg (not_not.2 h1), if_neg (not_not.2 h2)]⟩)
    · exact .inr (.inl ⟨h1, h2, by simp only [spriteCopy]; rw [if_neg (not_not.2 h1), if_pos h2]⟩)
  · exact .inl ⟨h1, by simp only [spriteCopy]; rw [if_pos h1]⟩

end Sys2Proof.Laws
end

