-- ==== Sys2Proof/Laws/HostAsm.lean ====
section
/-! SUPPORT. What a wide host access to DMEM or PMEM does: its bytes, its value and its memory (20_memory.md R69). -/

namespace Sys2Proof.Laws

open Sys2Proof Sys2Proof.Machine

/-- Composing the bytes of a value gives the value, cut to them. -/
theorem littleEndian_bytes (n value : Nat) : littleEndian (littleEndianBytes n value) = value % 256 ^ n := by
  induction n generalizing value with
  | zero => simp [littleEndianBytes, littleEndian, Nat.mod_one]
  | succ n ih =>
    rw [littleEndianBytes, littleEndian, ih, Nat.pow_succ', Nat.mod_mul]
    simp

/-- Byte i of a composed value is the byte at place i. -/
theorem littleEndian_byte (bs : List Byte) {i : Nat} (hi : i < bs.length) :
    BitVec.ofNat 8 (littleEndian bs / 256 ^ i) = bs[i] := by
  induction bs generalizing i with
  | nil => simp at hi
  | cons b bs ih =>
    have hb := b.isLt
    cases i with
    | zero =>
      apply BitVec.eq_of_toNat_eq
      simp [littleEndian]
      omega
    | succ i =>
      have hdiv : (b.toNat + 256 * littleEndian bs) / 256 = littleEndian bs := by omega
      simpa [littleEndian, Nat.pow_succ', ← Nat.div_div_eq_div_mul, hdiv] using ih (by simpa using hi)

/-- A wide write has as many bytes as its width. -/
@[simp] theorem length_littleEndianBytes (n value : Nat) : (littleEndianBytes n value).length = n := by
  induction n generalizing value with
  | zero => rfl
  | succ n ih => simp [littleEndianBytes, ih]

/-- A wide read starts with the byte at its first address. -/
theorem wideRead_succ (space : MemSpace) (a n : Nat) :
    wideRead space a (n + 1) = .byteRead space a :: wideRead space (a + 1) n := by
  simp [wideRead, asmLdb, List.range_succ_eq_map, Function.comp_def, Nat.add_assoc, Nat.add_comm 1]

/-- A host byte read outside the pending window and inside the space, as one step. -/
theorem step_byteRead {s : State} {space : MemSpace} {a : Nat} (hb : s.status.busy = false) (ha : a < spaceSize s space) :
    step { s with schedule := .byteRead space a :: s.schedule } =
      .next { s with rdata := (readByte s space a).setWidth 32 } := by
  cases space <;> simp_all [step, runEvent, byteAccess, readByte, spaceSize]

/-- A host byte write outside the pending window and inside the space, as one step. -/
theorem step_byteWrite {s : State} {space : MemSpace} {a : Nat} {b : Byte} (hb : s.status.busy = false)
    (ha : a < spaceSize s space) :
    step { s with schedule := .byteWrite space a b :: s.schedule } = .next (writeByte s space a b) := by
  cases space <;> simp_all [step, runEvent, byteAccess, writeByte, spaceSize]

/-- An uninterrupted wide read outside the pending window and inside its space: only `rdata` changes, and the bytes are
those at its addresses. -/
theorem runReads_wideRead {s : State} {space : MemSpace} {a n : Nat} (hb : s.status.busy = false)
    (ha : a + n ≤ spaceSize s space) :
    ∃ r : Word, runReads ((wideRead space a n).map fun ev => (ev, true)) s =
      .next ({ s with rdata := r }, (List.range n).map fun i => readByte s space (a + i)) := by
  induction n generalizing a s with
  | zero => exact ⟨s.rdata, rfl⟩
  | succ n ih =>
    obtain ⟨r, h⟩ := ih (s := { s with rdata := (readByte s space a).setWidth 32 }) (a := a + 1) hb
      (by cases space <;> simp only [spaceSize] at ha ⊢ <;> omega)
    refine ⟨r, ?_⟩
    rw [wideRead_succ, List.map_cons, runReads, step_byteRead hb (by omega)]
    simp only [h]
    have hk : ∀ x, readByte { s with rdata := (readByte s space a).setWidth 32 } space x = readByte s space x := by
      intro x; cases space <;> rfl
    simp [hk, List.range_succ_eq_map, Function.comp_def, Nat.add_assoc, Nat.add_comm 1]

/-- The value of an uninterrupted wide read: the bytes at its addresses, little-endian. -/
theorem wideReadUninterrupted_next {s : State} {space : MemSpace} {a n : Nat} (hb : s.status.busy = false)
    (ha : a + n ≤ spaceSize s space) :
    ∃ r : Word, wideReadUninterrupted space a n s =
      .next ({ s with rdata := r }, littleEndian ((List.range n).map fun i => readByte s space (a + i))) := by
  obtain ⟨r, h⟩ := runReads_wideRead hb ha
  exact ⟨r, by simp [wideReadUninterrupted, wideReadValue, h]⟩

/-- A run collects one byte for each marked move, whatever stands between them. -/
theorem runReads_length {moves : List (Event × Bool)} {s t : State} {bytes : List Byte}
    (h : runReads moves s = .next (t, bytes)) : bytes.length = (moves.filter fun m => m.2).length := by
  induction moves generalizing s bytes with
  | nil => cases h; rfl
  | cons m moves ih =>
    obtain ⟨ev, own⟩ := m
    rw [runReads] at h
    split at h
    · split at h
      · rename_i hr
        cases h
        cases own <;> simp [ih hr]
      · cases h
      · cases h
    · cases h
    · cases h

/-- A wide read of n bytes, interrupted or not, collects n bytes. -/
theorem isWideRead_length {space : MemSpace} {a n : Nat} {moves : List (Event × Bool)} {s t : State} {bytes : List Byte}
    (hw : isWideRead space a n moves = true) (h : runReads moves s = .next (t, bytes)) : bytes.length = n := by
  have := congrArg List.length (eq_of_beq hw)
  rw [runReads_length h]
  simpa [wideRead] using this

/-- What a byte write leaves to read: its byte, and every other byte as before. -/
theorem readByte_writeByte {s : State} (hd : memWf s.dmem = true) (hp : memWf s.pmem = true) (space : MemSpace)
    (a x : Nat) (b : Byte) :
    readByte (writeByte s space a b) space x = if x = a then b else readByte s space x := by
  cases space <;> simp [readByte, writeByte, memRead_memWrite, hd, hp]

/-- A run of byte writes outside the pending window and inside the space, uninterrupted: each byte at its own address, every
other byte as before, still idle. -/
theorem runReads_asmStb {s : State} {space : MemSpace} {a : Nat} {bs : List Byte} (hb : s.status.busy = false)
    (ha : a + bs.length ≤ spaceSize s space) (hd : memWf s.dmem = true) (hp : memWf s.pmem = true) :
    ∃ t, runReads ((asmStb space a bs).map fun ev => (ev, false)) s = .next (t, []) ∧ t.status = s.status ∧
      t.cfg = s.cfg ∧ ∀ x, readByte t space x = if a ≤ x then bs.getD (x - a) (readByte s space x)
        else readByte s space x := by
  induction bs generalizing a s with
  | nil => exact ⟨s, rfl, rfl, rfl, by simp⟩
  | cons b bs ih =>
    simp only [List.length_cons] at ha
    have hs : (writeByte s space a b).status = s.status ∧ (writeByte s space a b).cfg = s.cfg := by
      cases space <;> exact ⟨rfl, rfl⟩
    have hw : memWf (writeByte s space a b).dmem = true ∧ memWf (writeByte s space a b).pmem = true := by
      cases space
      · exact ⟨memWf_memWrite hd a b, hp⟩
      · exact ⟨hd, memWf_memWrite hp a b⟩
    have hsize : spaceSize (writeByte s space a b) space = spaceSize s space := by cases space <;> rfl
    obtain ⟨t, ht, hst, hcfg, hread⟩ := ih (s := writeByte s space a b) (a := a + 1) (by rw [hs.1]; exact hb)
      (by rw [hsize]; omega) hw.1 hw.2
    refine ⟨t, ?_, hst.trans hs.1, hcfg.trans hs.2, fun x => ?_⟩
    · rw [asmStb, List.map_cons, runReads, step_byteWrite hb (by omega)]
      simp [ht]
    · rw [hread, readByte_writeByte hd hp]
      rcases Nat.lt_trichotomy x a with h | h | h
      · rw [if_neg (by omega), if_neg (by omega), if_neg (by omega)]
      · subst h; simp
      · obtain ⟨k, rfl⟩ : ∃ k, x = a + 1 + k := ⟨x - (a + 1), by omega⟩
        rw [if_pos (by omega), if_neg (by omega), if_pos (by omega)]
        simp [show a + 1 + k - a = k + 1 by omega]

end Sys2Proof.Laws
end

