-- ==== Sys2Proof/Laws/Lists.lean ====
section
/-! SUPPORT. Nested loops over ranges as one loop, and what reading after the writes of a packed output gives. -/

namespace Sys2Proof.Laws

open Sys2Proof Sys2Proof.Machine

/-- A loop over rows and columns is one loop over positions. -/
theorem range_flatMap_map {α : Type} (h w : Nat) (g : Nat → Nat → α) :
    ((List.range h).flatMap fun i => (List.range w).map fun j => g i j) =
      (List.range (h * w)).map fun t => g (t / w) (t % w) := by
  induction h with
  | zero => simp
  | succ h ih =>
    rw [List.range_succ, List.flatMap_append, ih, Nat.succ_mul, List.range_add, List.map_append]
    congr 1
    simp only [List.flatMap_cons, List.flatMap_nil, List.append_nil, List.map_map]
    refine List.map_congr_left fun j hj => ?_
    have hjw : j < w := List.mem_range.1 hj
    have hd : (h * w + j) / w = h := by
      rw [Nat.add_comm, Nat.add_mul_div_right _ _ (by omega), Nat.div_eq_of_lt hjw, Nat.zero_add]
    have hm : (h * w + j) % w = j := by
      rw [Nat.add_comm, Nat.add_mul_mod_self_right, Nat.mod_eq_of_lt hjw]
    simp [hd, hm]

/-- A loop over rows and columns with a running state is one loop over positions. -/
theorem range_foldl_foldl {σ : Type} (h w : Nat) (g : σ → Nat → Nat → σ) (x : σ) :
    (List.range h).foldl (fun y i => (List.range w).foldl (fun y j => g y i j) y) x =
      (List.range (h * w)).foldl (fun y t => g y (t / w) (t % w)) x := by
  induction h with
  | zero => simp
  | succ h ih =>
    rw [List.range_succ, List.foldl_append, ih, Nat.succ_mul, List.range_add, List.foldl_append, List.foldl_map]
    simp only [List.foldl_cons, List.foldl_nil]
    refine List.foldl_ext _ _ _ fun y j hj => ?_
    have hjw : j < w := List.mem_range.1 hj
    have hd : (h * w + j) / w = h := by
      rw [Nat.add_comm, Nat.add_mul_div_right _ _ (by omega), Nat.div_eq_of_lt hjw, Nat.zero_add]
    have hm : (h * w + j) % w = j := by
      rw [Nat.add_comm, Nat.add_mul_mod_self_right, Nat.mod_eq_of_lt hjw]
    rw [hd, hm]

/-- A position in a packed output of h rows of w bytes lies inside it. -/
theorem row_pos_lt {r c h w : Nat} (hr : r < h) (hc : c < w) : r * w + c < h * w := by
  calc r * w + c < r * w + w := by omega
    _ = (r + 1) * w := by rw [Nat.add_mul, Nat.one_mul]
    _ ≤ h * w := Nat.mul_le_mul_right w hr

/-- The row of a position. -/
theorem row_pos_div {r c w : Nat} (hc : c < w) : (r * w + c) / w = r := by
  rw [Nat.add_comm, Nat.add_mul_div_right _ _ (by omega), Nat.div_eq_of_lt hc, Nat.zero_add]

/-- The column of a position. -/
theorem row_pos_mod {r c w : Nat} (hc : c < w) : (r * w + c) % w = c := by
  rw [Nat.add_comm, Nat.add_mul_mod_self_right, Nat.mod_eq_of_lt hc]

/-- The writes of h packed rows of w bytes are those of one packed output. -/
theorem packedRows_eq (dst h w : Nat) (f : Nat → Nat → Byte) :
    ((List.range h).flatMap fun i => (List.range w).map fun j => (dst + i * w + j, f i j)) =
      (List.range (h * w)).map fun t => (dst + t, f (t / w) (t % w)) := by
  rw [range_flatMap_map h w fun i j => (dst + i * w + j, f i j)]
  refine List.map_congr_left fun t _ => ?_
  rw [Nat.add_assoc, Nat.div_add_mod']

/-- Reading after h packed rows of w bytes. -/
theorem memRead_packedRows {m : Memory} (hm : memWf m = true) (dst h w x : Nat) (f : Nat → Nat → Byte) :
    memRead (memWriteAll m
      ((List.range h).flatMap fun i => (List.range w).map fun j => (dst + i * w + j, f i j))) x =
      if dst ≤ x ∧ x < dst + h * w then f ((x - dst) / w) ((x - dst) % w) else memRead m x := by
  rw [packedRows_eq]
  exact memRead_packed hm dst (h * w) x fun t => f (t / w) (t % w)

/-- Reading byte c of row r of h packed rows of w bytes. -/
theorem memRead_packedRows_at {m : Memory} (hm : memWf m = true) (dst : Nat) {h w r c : Nat} (hr : r < h) (hc : c < w)
    (f : Nat → Nat → Byte) :
    memRead (memWriteAll m
      ((List.range h).flatMap fun i => (List.range w).map fun j => (dst + i * w + j, f i j))) (dst + r * w + c) =
      f r c := by
  have hlt := row_pos_lt hr hc
  rw [memRead_packedRows hm, if_pos ⟨by omega, by omega⟩]
  have : dst + r * w + c - dst = r * w + c := by omega
  rw [this, row_pos_div hc, row_pos_mod hc]

end Sys2Proof.Laws
end

