-- ==== Sys2Proof/Laws/PerInstr.lean ====
section
/-! SUPPORT. Statements for all commands, one lemma per command. -/

namespace Sys2Proof.Laws

open Sys2Proof

/-- A command's word has its opcode in bits 7:0 and 0 in bits 31:16 (30_encoding.md R90, R91). -/
def EncodingShape.Statement (i : Instr) : Prop :=
  (encode i).extractLsb' 0 8 = i.opc ∧ (encode i).extractLsb' 16 16 = 0

theorem EncodingShape.nop : EncodingShape.Statement .nop := ⟨by decide, by decide⟩

theorem EncodingShape.enc0 : EncodingShape.Statement .enc0 := ⟨by decide, by decide⟩

theorem EncodingShape.dec0 : EncodingShape.Statement .dec0 := ⟨by decide, by decide⟩

theorem EncodingShape.enc1 : EncodingShape.Statement .enc1 := ⟨by decide, by decide⟩

theorem EncodingShape.dec1 : EncodingShape.Statement .dec1 := ⟨by decide, by decide⟩

theorem EncodingShape.enc2 : EncodingShape.Statement .enc2 := ⟨by decide, by decide⟩

theorem EncodingShape.dec2 : EncodingShape.Statement .dec2 := ⟨by decide, by decide⟩

theorem EncodingShape.enc3 : EncodingShape.Statement .enc3 := ⟨by decide, by decide⟩

theorem EncodingShape.dec3 : EncodingShape.Statement .dec3 := ⟨by decide, by decide⟩

theorem EncodingShape.mix03 : EncodingShape.Statement .mix03 := ⟨by decide, by decide⟩

theorem EncodingShape.limit (mode : Mode) : EncodingShape.Statement (.limit mode) := by
  cases mode <;> exact ⟨by decide, by decide⟩

theorem EncodingShape.rgb2ink : EncodingShape.Statement .rgb2ink := ⟨by decide, by decide⟩

theorem EncodingShape.ink2rgb : EncodingShape.Statement .ink2rgb := ⟨by decide, by decide⟩

theorem EncodingShape.ink2ga : EncodingShape.Statement .ink2ga := ⟨by decide, by decide⟩

theorem EncodingShape.pget : EncodingShape.Statement .pget := ⟨by decide, by decide⟩

theorem EncodingShape.pfind : EncodingShape.Statement .pfind := ⟨by decide, by decide⟩

theorem EncodingShape.danext : EncodingShape.Statement .danext := ⟨by decide, by decide⟩

theorem EncodingShape.rgbq : EncodingShape.Statement .rgbq := ⟨by decide, by decide⟩

theorem EncodingShape.i2p : EncodingShape.Statement .i2p := ⟨by decide, by decide⟩

theorem EncodingShape.p2i : EncodingShape.Statement .p2i := ⟨by decide, by decide⟩

theorem EncodingShape.penc (mode : Mode) (tail : Tail) : EncodingShape.Statement (.penc mode tail) := by
  cases mode <;> cases tail <;> exact ⟨by decide, by decide⟩

theorem EncodingShape.pdec (mode : Mode) : EncodingShape.Statement (.pdec mode) := by
  cases mode <;> exact ⟨by decide, by decide⟩

theorem EncodingShape.sprlin : EncodingShape.Statement .sprlin := ⟨by decide, by decide⟩

theorem EncodingShape.sprgray : EncodingShape.Statement .sprgray := ⟨by decide, by decide⟩

theorem EncodingShape.sprungray : EncodingShape.Statement .sprungray := ⟨by decide, by decide⟩

theorem EncodingShape.sprzz : EncodingShape.Statement .sprzz := ⟨by decide, by decide⟩

theorem EncodingShape.sprlrl : EncodingShape.Statement .sprlrl := ⟨by decide, by decide⟩

theorem EncodingShape.tiles (hdir : HDir) (vdir : VDir) : EncodingShape.Statement (.tiles hdir vdir) := by
  cases hdir <;> cases vdir <;> exact ⟨by decide, by decide⟩

theorem EncodingShape.memblk (crop : Bool) : EncodingShape.Statement (.memblk crop) := by
  cases crop <;> exact ⟨by decide, by decide⟩

end Sys2Proof.Laws
end

