-- ==== Sys2Proof/Laws/Pixels.lean ====
section
/-! SUPPORT. The bits of the codec's bytes, one bit at a time. -/

namespace Sys2Proof.Laws

open Sys2Proof Sys2Proof.Machine

/-- A moved bit stands at its destination and nowhere else. -/
theorem getLsbD_moveBit (p : Byte) (src dst i : Nat) (hi : i < 8) :
    (moveBit p src dst).getLsbD i = (decide (i = dst) && p.getLsbD src) := by
  rcases Nat.lt_trichotomy i dst with h | h | h
  · simp [moveBit, h, Nat.ne_of_lt h]
  · subst h
    cases hp : p.getLsbD src <;> simp [moveBit, hp, hi]
  · have h0 : i - dst ≠ 0 := by omega
    cases hp : p.getLsbD src <;> simp [moveBit, hp, Nat.ne_of_gt h, hi, h0]

/-- The pens of modes 1 and 2 that clamp are those above 3. -/
theorem penClamps_eq_true (p : Byte) : penClamps p = true ↔ 3 < p.toNat := by simp [penClamps]

/-- A clamped pen keeps its two low bits when it is not above 3, else it is 0. -/
theorem getLsbD_clamp1 (p : Byte) (i : Nat) : (clamp1 p).getLsbD i = (decide (p.toNat ≤ 3) && p.getLsbD i) := by
  by_cases h : p.toNat ≤ 3
  · simp [clamp1, penClamps, h, Nat.not_lt.2 h]
  · simp [clamp1, penClamps, h, Nat.lt_of_not_le h]

/-- The mode-2 bit of a pen is set for pens 1 to 3. -/
theorem bit2_eq (p : Byte) : bit2 p = if 1 ≤ p.toNat ∧ p.toNat ≤ 3 then 1 else 0 := by
  by_cases h0 : p = 0
  · subst h0; rfl
  · have h1 : p.toNat ≠ 0 := fun h => h0 (BitVec.eq_of_toNat_eq (by simpa using h))
    by_cases h3 : p.toNat ≤ 3
    · rw [bit2, if_neg h0, if_neg (by simp [penClamps, h3]), if_pos ⟨by omega, h3⟩]
    · rw [bit2, if_neg h0, if_pos (by simp [penClamps]; omega), if_neg (by omega)]

end Sys2Proof.Laws
end

