-- ==== Sys2Proof/Laws/Sprites.lean ====
section
/-! SUPPORT. The tile writer as one loop over the positions of its packed output. -/

namespace Sys2Proof.Laws

open Sys2Proof Sys2Proof.Machine

/-- The writes of TILES as one loop: position t of the output is byte t % (th * tw) of tile t / (th * tw), tiles row-major. -/
theorem tileWrites_eq (k : Snapshot) (g : TileGrid) (flips grays : Bool) :
    tileWrites k g flips grays = (List.range (g.gh * g.gw * (g.th * g.tw))).map fun t =>
      (argNat k 1 + t,
       spriteByte k (spriteOf k) (t / (g.th * g.tw) / g.gw * g.th + tileRow grays (t % (g.th * g.tw) / g.tw))
        (t / (g.th * g.tw) % g.gw * g.tw + tileColumn flips g.tw (t % (g.th * g.tw) / g.tw) (t % (g.th * g.tw) % g.tw))) := by
  have h1 (t : Nat) : t / (g.gw * (g.th * g.tw)) = t / (g.th * g.tw) / g.gw := by
    rw [Nat.div_div_eq_div_mul, Nat.mul_comm]
  have h2 (t : Nat) : t % (g.gw * (g.th * g.tw)) / (g.th * g.tw) = t / (g.th * g.tw) % g.gw :=
    Nat.mod_mul_left_div_self t (g.th * g.tw) g.gw
  have h3 (t : Nat) : t % (g.gw * (g.th * g.tw)) % (g.th * g.tw) = t % (g.th * g.tw) :=
    Nat.mod_mul_left_mod t g.gw (g.th * g.tw)
  simp only [tileWrites, range_flatMap_map, h1, h2, h3, Nat.mul_assoc g.gh]
  refine List.map_congr_left fun t _ => ?_
  have e1 := Nat.div_add_mod' (t / (g.th * g.tw)) g.gw
  have e2 := Nat.div_add_mod' (t % (g.th * g.tw)) g.tw
  have e3 := Nat.div_add_mod' t (g.th * g.tw)
  rw [e1, Nat.add_assoc _ (_ * g.tw), e2, Nat.add_assoc, Nat.mul_assoc, Nat.mul_comm g.tw, e3]

end Sys2Proof.Laws
end

