-- ==== Sys2Proof/Laws/Walk.lean ====
section
/-! SUPPORT. MEMBLK's walk over the screen as one loop over its words, and the bytes its words write. -/

namespace Sys2Proof.Laws

open Sys2Proof Sys2Proof.Machine

/-- The number of words of the walk. -/
def walkLength (k : Snapshot) : Nat := scrVdisp k.scrdim * scrHdisp k.scrdim

/-- The DisplayAddress of word t of the walk. -/
def walkAddr (k : Snapshot) (t : Nat) : BitVec 14 := nextWord^[t] k.da

/-- The writes of word t of the walk. -/
def walkWrites (k : Snapshot) (t : Nat) : List Host.Cell :=
  wordWrites k (t / scrHdisp k.scrdim) (t % scrHdisp k.scrdim) (walkAddr k t)

/-- The pages the first n words of the walk touch. -/
def walkPages (k : Snapshot) (n : Nat) : BitVec 4 :=
  (List.range n).foldl (fun pm t => pm ||| (1 <<< (daPage (walkAddr k t)).toNat)) 0

/-- The walk after n words. -/
theorem walk_fold (k : Snapshot) (n : Nat) :
    (List.range n).foldl (fun w t => walkWord k (t / scrHdisp k.scrdim) (t % scrHdisp k.scrdim) w)
      { d := k.da, pm := 0, writes := [] } =
      { d := walkAddr k n
        pm := walkPages k n
        writes := (List.range n).flatMap (walkWrites k) } := by
  induction n with
  | zero => rfl
  | succ n ih =>
    rw [List.range_succ, List.foldl_append, ih, List.flatMap_append]
    simp [walkWord, walkAddr, walkWrites, walkPages, List.range_succ, List.foldl_append, Function.iterate_succ_apply']

/-- The whole walk: where it ends, the pages it touched, its writes in order. -/
theorem walkScreen_eq (k : Snapshot) :
    walkScreen k =
      { d := walkAddr k (walkLength k)
        pm := walkPages k (walkLength k)
        writes := (List.range (walkLength k)).flatMap (walkWrites k) } := by
  rw [walkScreen, range_foldl_foldl _ _ fun w cr wc => walkWord k cr wc w]
  exact walk_fold k _

/-- A page's bit is set when the mask has it, or when the page is the one being added. -/
theorem getLsbD_addPage (pm : BitVec 4) (page : BitVec 2) (p : Nat) (hp : p < 4) :
    (pm ||| (1 <<< page.toNat)).getLsbD p = (pm.getLsbD p || decide (page.toNat = p)) := by
  rw [BitVec.getLsbD_or]
  congr 1
  have key : ∀ (page : Fin 4) (p : Fin 4), ((1 : BitVec 4) <<< page.val).getLsbD p.val = decide (page.val = p.val) := by
    decide
  exact key ⟨page.toNat, page.isLt⟩ ⟨p, hp⟩

/-- A page is marked exactly when some word of the walk lies in it. -/
theorem walk_pages (k : Snapshot) (n p : Nat) (hp : p < 4) :
    (walkPages k n).getLsbD p = true ↔ ∃ t < n, (daPage (walkAddr k t)).toNat = p := by
  induction n with
  | zero => simp [walkPages]
  | succ n ih =>
    have hs : walkPages k (n + 1) = walkPages k n ||| (1 <<< (daPage (walkAddr k n)).toNat) := by
      simp [walkPages, List.range_succ, List.foldl_append]
    rw [hs, getLsbD_addPage _ _ _ hp]
    simp only [Bool.or_eq_true, ih, decide_eq_true_eq, Nat.lt_succ_iff_lt_or_eq, or_and_right, exists_or,
      exists_eq_left]

/-- A cell is written by a word exactly when it is a byte of one of the word's lines that the sprite covers. -/
theorem mem_wordWrites {k : Snapshot} {cr wc : Nat} {d : BitVec 14} {c : Host.Cell} :
    c ∈ wordWrites k cr wc d ↔
      ∃ l ≤ scrMra k.scrdim, ∃ b < 2,
        (cr * (scrMra k.scrdim + 1) + l < (spriteOf k).h ∧ wc * 2 + b < (spriteOf k).w) ∧
          c = (wordByteAddr d l b, spriteByte k (spriteOf k) (cr * (scrMra k.scrdim + 1) + l) (wc * 2 + b)) := by
  simp only [wordWrites, List.mem_flatMap, List.mem_range, Nat.lt_succ_iff]
  refine exists_congr fun l => and_congr_right fun _ => exists_congr fun b => and_congr_right fun _ => ?_
  split
  next h => simp [h]
  next h => simp [h]

/-- A byte whose last writer is in the middle part of a list of writes holds what that part writes. -/
theorem memRead_memWriteAll_of_last {m : Memory} (hm : memWf m = true) {before part after : List Host.Cell} {x : Nat}
    {b : Byte} (hmem : (x, b) ∈ part) (hall : ∀ c ∈ part, c.1 = x → c.2 = b) (hafter : ∀ c ∈ after, c.1 ≠ x) :
    memRead (memWriteAll m (before ++ part ++ after)) x = b := by
  rw [memWriteAll_append, memRead_memWriteAll_of_not_mem (memWf_memWriteAll hm _) hafter, memWriteAll_append]
  exact memRead_memWriteAll_of_mem (memWf_memWriteAll hm _) hmem hall

/-- A byte of the walk's output whose last writer is word t holds what word t writes there. -/
theorem memRead_walk {m : Memory} (hm : memWf m = true) (k : Snapshot) {n t x : Nat} {b : Byte} (ht : t < n)
    (hmem : (x, b) ∈ walkWrites k t) (hall : ∀ c ∈ walkWrites k t, c.1 = x → c.2 = b)
    (hafter : ∀ t', t < t' → t' < n → ∀ c ∈ walkWrites k t', c.1 ≠ x) :
    memRead (memWriteAll m ((List.range n).flatMap (walkWrites k))) x = b := by
  obtain ⟨r, rfl⟩ : ∃ r, n = t + (1 + r) := ⟨n - t - 1, by omega⟩
  rw [List.range_add, List.flatMap_append, List.range_add, List.map_append, List.flatMap_append, ← List.append_assoc]
  refine memRead_memWriteAll_of_last hm (b := b) ?_ ?_ ?_
  · simpa using hmem
  · simpa using hall
  · simp only [List.mem_flatMap, List.mem_map, List.mem_range]
    rintro c ⟨t', ⟨-, ⟨u, hu, rfl⟩, rfl⟩, hc⟩
    exact hafter _ (by omega) (by omega) c hc

/-- A word's byte addresses, with up to 8 lines, lie inside PMEM. -/
theorem wordByteAddr_lt {d : BitVec 14} {l b : Nat} (hl : l ≤ 7) (hb : b < 2) : wordByteAddr d l b < pmemSize := by
  have hp := (daPage d).isLt
  have ho := (daOffset d).isLt
  simp only [wordByteAddr, pmemSize]
  omega

end Sys2Proof.Laws
end

