-- ==== Sys2Proof/Tests/Slice0.lean ====
section
/-! SUPPORT. Small tests, and a witness for every statement that has hypotheses. The expected results are those of
spec/95_test_vectors.md (each test names its vector) or are written out from the rule named. -/

namespace Sys2Proof.Tests

open Sys2Proof Sys2Proof.Machine Sys2Proof.Claims

/-! ### Well-formedness: each check refuses an ill-formed term -/

theorem test_wellFormed_refuses_unassigned_opcode :
    CommandFields.opcAssigned ⟨0x0B, 0, 0, 0, 0, 0, 0⟩ = false ∧
      CommandFields.wellFormed ⟨0x0B, 0, 0, 0, 0, 0, 0⟩ = false := by decide

theorem test_wellFormed_refuses_unused_field :
    CommandFields.unusedZero ⟨0x00, 1, 0, 0, 0, 0, 0⟩ = false ∧
      CommandFields.wellFormed ⟨0x00, 1, 0, 0, 0, 0, 0⟩ = false ∧
      CommandFields.wellFormed ⟨0x33, 1, 1, 1, 0, 0, 0⟩ = false ∧
      CommandFields.wellFormed ⟨0x45, 1, 0, 0, 2, 2, 0⟩ = false := by
  decide

theorem test_wellFormed_refuses_reserved_bits :
    CommandFields.reservedZero ⟨0x01, 0, 0, 0, 0, 0, 1⟩ = false ∧
      CommandFields.wellFormed ⟨0x01, 0, 0, 0, 0, 0, 1⟩ = false := by decide

theorem test_wellFormed_accepts_legal_fields :
    CommandFields.wellFormed ⟨0x33, 3, 1, 0, 0, 0, 0⟩ = true ∧
      CommandFields.wellFormed ⟨0x45, 0, 0, 0, 3, 3, 0⟩ = true := by
  decide

/-! ### Decoding: a word written out from 30_encoding.md R90 and R98 for every command -/

theorem test_decode_codec_words :
    decode 0x00000000 = .instr .nop ∧ decode 0x00000001 = .instr .enc0 ∧ decode 0x00000002 = .instr .dec0 ∧
      decode 0x00000003 = .instr .enc1 ∧ decode 0x00000004 = .instr .dec1 ∧ decode 0x00000005 = .instr .enc2 ∧
      decode 0x00000006 = .instr .dec2 ∧ decode 0x00000007 = .instr .enc3 ∧ decode 0x00000008 = .instr .dec3 ∧
      decode 0x00000009 = .instr .mix03 ∧ decode 0x0000000A = .instr (.limit .m0) ∧
      decode 0x0000010A = .instr (.limit .m1) ∧ decode 0x0000020A = .instr (.limit .m2) ∧
      decode 0x0000030A = .instr (.limit .m3) := by decide

theorem test_decode_palette_words :
    decode 0x00000010 = .instr .rgb2ink ∧ decode 0x00000011 = .instr .ink2rgb ∧ decode 0x00000012 = .instr .ink2ga ∧
      decode 0x00000013 = .instr .pget ∧ decode 0x00000014 = .instr .pfind ∧ decode 0x00000020 = .instr .danext ∧
      decode 0x00000030 = .instr .rgbq ∧ decode 0x00000031 = .instr .i2p ∧ decode 0x00000032 = .instr .p2i := by decide

theorem test_decode_buffer_words :
    decode 0x00000033 = .instr (.penc .m0 .crop) ∧ decode 0x00000533 = .instr (.penc .m1 .pad) ∧
      decode 0x00000633 = .instr (.penc .m2 .pad) ∧ decode 0x00000333 = .instr (.penc .m3 .crop) ∧
      decode 0x00000034 = .instr (.pdec .m0) ∧ decode 0x00000334 = .instr (.pdec .m3) := by decide

theorem test_decode_sprite_words :
    decode 0x00000040 = .instr .sprlin ∧ decode 0x00000041 = .instr .sprgray ∧ decode 0x00000042 = .instr .sprungray ∧
      decode 0x00000043 = .instr .sprzz ∧ decode 0x00000044 = .instr .sprlrl ∧
      decode 0x00002045 = .instr (.tiles .startFromLeftAndFlip .topToBottom) ∧
      decode 0x00001045 = .instr (.tiles .rightToLeft .topToBottom) ∧
      decode 0x00003045 = .instr (.tiles .startFromRightAndFlip .topToBottom) ∧
      decode 0x00004045 = .instr (.tiles .leftToRight .bottomToTop) ∧
      decode 0x0000C045 = .instr (.tiles .leftToRight .flipAtEnd) ∧
      decode 0x0000A045 = .instr (.tiles .startFromLeftAndFlip .grayCodeFromTop) ∧
      decode 0x00000050 = .instr (.memblk false) ∧ decode 0x00000850 = .instr (.memblk true) := by decide

/-- Vectors E2 to E7 of spec/95_test_vectors.md 2.8, and stray bits of TILES and MEMBLK (30_encoding.md R97). -/
theorem test_decode_refuses_illegal_words :
    decode 0x00000100 = .illegal (.strayBits 0x00) ∧ decode 0x0000000B = .illegal (.unassignedOpcode 0x0B) ∧
      decode 0x00010001 = .illegal (.strayBits 0x01) ∧ decode 0x00000833 = .illegal (.strayBits 0x33) ∧
      decode 0x00000101 = .illegal (.strayBits 0x01) ∧ decode 0x000000FF = .illegal (.unassignedOpcode 0xFF) ∧
      decode 0x00000145 = .illegal (.strayBits 0x45) ∧ decode 0x00001050 = .illegal (.strayBits 0x50) := by decide

/-- The masks printed in 30_encoding.md R98 are those of the rows' fields, TILES apart (log entry 11). -/
theorem test_rowMask_is_the_printed_mask :
    rowMask noFields = 0xFFFFFFFF ∧ rowMask { mode := true } = 0xFFFFFCFF ∧
      rowMask { mode := true, tail := true } = 0xFFFFF8FF ∧ rowMask { crop := true } = 0xFFFFF7FF := by decide

/-- The host's numbering: a table word of 32 bits decodes as the command word, bits above nbits read 0. -/
theorem test_decodeTableWord :
    decodeTableWord 32 0x533 = some (.penc .m1 .pad) ∧ decodeTableWord 8 0x00000533 = some (.penc .m0 .crop) ∧
      decodeTableWord 32 0x0B = none := by decide

/-! ### One step of one command -/

/-- A state idle after reset in which the host has written the ARG registers, the palette, DA, SCRDIM and DMEM bytes from
address 0 on. -/
def idle (args : List Word) (src : List Byte) (pal : List (Nat × Word)) (da : BitVec 14) (scrdim : BitVec 21) : State :=
  { State.reset with
    args := Vector.ofFn fun n => args.getD n.val 0
    pal := Vector.ofFn fun p => palOfWord ((pal.lookup p.val).getD 0)
    da := da
    scrdim := scrdim
    dmem := memOfCells 0x10000 ((List.range src.length).map fun i => (i, src.getD i 0)) }

/-- The state idle gives, with a command word accepted. -/
def pend (cmd : Word) (args : List Word) (src : List Byte := []) (pal : List (Nat × Word) := []) (da : BitVec 14 := 0)
    (scrdim : BitVec 21 := 0) : State :=
  acceptCommand (idle args src pal da scrdim) cmd

/-- The next state of an outcome, or the state given when the outcome is none. -/
def nextOf (o : StepOutcome) (s : State) : State :=
  match o with
  | .next t => t
  | _ => s

/-- The state one step after. -/
def ran (s : State) : State := nextOf (step s) s

/-- STATUS, RES0, RES1 and the four ERRINFO registers one step after. -/
def seen (s : State) : List Word :=
  [readReg (ran s) .status, (ran s).res0, (ran s).res1] ++ (ran s).errinfo.toList

/-- n bytes of DMEM from an address on, one step after. -/
def seenDmem (s : State) (a n : Nat) : List Byte := (List.range n).map fun i => memRead (ran s).dmem (a + i)

/-- n bytes of PMEM from an address on, one step after. -/
def seenPmem (s : State) (a n : Nat) : List Byte := (List.range n).map fun i => memRead (ran s).pmem (a + i)

/-- The first 7 rows of the two columns below. -/
def sevenRows : List Byte := [0, 0x01, 0x10, 0x11, 0x20, 0x21, 0x30, 0x31, 0x40, 0x41, 0x50, 0x51, 0x60, 0x61]

/-- A column of 8 bytes, row r being r * 0x10. -/
def column : List Byte := [0, 0x10, 0x20, 0x30, 0x40, 0x50, 0x60, 0x70]

/-- The column in gray-code order. -/
def grayColumn : List Byte := [0, 0x10, 0x30, 0x20, 0x60, 0x70, 0x50, 0x40]

/-- Two columns of 8 bytes, row r being r * 0x10 and r * 0x10 + 1. -/
def twoColumns : List Byte :=
  [0, 0x01, 0x10, 0x11, 0x20, 0x21, 0x30, 0x31, 0x40, 0x41, 0x50, 0x51, 0x60, 0x61, 0x70, 0x71]

/-- Vector E1. -/
theorem test_nop_completes :
    seen (pend 0 []) = [2, 0, 0, 0, 0, 0, 0] := by decide

/-- Vector E2. -/
theorem test_illegal_word_raises :
    seen (pend 0x100 []) = [0x106, 0, 0, 0x100, 0, 0, 0] := by decide

/-- Vector C11. -/
theorem test_enc0_ignores_upper_lanes :
    seen (pend 1 [0xffff0a05]) = [2, 0xa5, 0, 0, 0, 0, 0] := by decide

/-- Vector C13. -/
theorem test_enc0_border_is_bad_pen :
    seen (pend 1 [0x1000]) = [0x206, 0, 0, 1, 0x10, 0, 0] := by decide

/-- Vector C18. -/
theorem test_dec0_ignores_upper_bits :
    seen (pend 2 [0xffffff5a]) = [2, 0x50a, 0, 0, 0, 0, 0] := by decide

/-- Vector C17. -/
theorem test_dec0_bit_order :
    seen (pend 2 [0x84]) = [2, 0x201, 0, 0, 0, 0, 0] := by decide

/-- Vector C19. -/
theorem test_enc1_clamps :
    seen (pend 3 [0x4000703]) = [0x10002, 0x88, 0, 0, 0, 0, 0] := by decide

/-- Vector C22. -/
theorem test_dec1_low_nibble :
    seen (pend 4 [0xf]) = [2, 0x2020202, 0, 0, 0, 0, 0] := by decide

/-- Vector C26. -/
theorem test_enc2_threshold :
    seen (pend 5 [0x302, 0x1000000]) = [2, 0xc1, 0, 0, 0, 0, 0] := by decide

/-- Vector C27. -/
theorem test_enc2_clamps :
    seen (pend 5 [0x100104, 0]) = [0x10002, 0x40, 0, 0, 0, 0, 0] := by decide

/-- Vector C28. -/
theorem test_dec2_pixel_order :
    seen (pend 6 [0xa5]) = [2, 0x10001, 0x1000100, 0, 0, 0, 0] := by decide

/-- Vector C31. -/
theorem test_enc3_pens :
    seen (pend 7 [0x102]) = [2, 0x48, 0, 0, 0, 0, 0] := by decide

/-- Vector C33. -/
theorem test_enc3_bad_pen :
    seen (pend 7 [0x400]) = [0x206, 0, 0, 1, 4, 0, 0] := by decide

/-- Vector C34. -/
theorem test_dec3_ignores_other_bits :
    seen (pend 8 [0x22]) = [2, 0, 0, 0, 0, 0, 0] := by decide

/-- Vector C36. -/
theorem test_dec3_pixel1 :
    seen (pend 8 [0x44]) = [2, 0x300, 0, 0, 0, 0, 0] := by decide

/-- Vector 2.1, full mixer table, p0 = 3 and p3 = 1. -/
theorem test_mix03_table :
    seen (pend 9 [0x103]) = [2, 9, 0, 0, 0, 0, 0] := by decide

/-- Vector C39. -/
theorem test_mix03_bad_pen :
    seen (pend 9 [0x400]) = [0x206, 0, 0, 1, 4, 0, 0] := by decide

/-- Vector C44. -/
theorem test_limit_border :
    seen (pend 0x20a [0x10]) = [2, 0, 0, 0, 0, 0, 0] := by decide

/-- Vector C45. -/
theorem test_limit_not_a_pen :
    seen (pend 0xa [0x11]) = [0x206, 0, 0, 0, 0x11, 0, 0] := by decide

/-- Vector K8. -/
theorem test_rgb2ink_tie :
    seen (pend 0x10 [0x804000]) = [2, 3, 0x1000, 0, 0, 0, 0] := by decide

/-- Vector K11. -/
theorem test_rgb2ink_distance :
    seen (pend 0x10 [0x123456]) = [2, 1, 0x12b8, 0, 0, 0, 0] := by decide

/-- Vector K12. -/
theorem test_ink2rgb :
    seen (pend 0x11 [6]) = [2, 0xff0000, 0, 0, 0, 0, 0] := by decide

/-- Vector K15. -/
theorem test_ink2rgb_trap :
    seen (pend 0x11 [0x1b]) = [0x306, 0, 0, 0, 0x1b, 0, 0] := by decide

/-- Vector K18. -/
theorem test_ink2ga :
    seen (pend 0x12 [0xd]) = [2, 0x40, 0, 0, 0, 0, 0] := by decide

/-- Vector K19. -/
theorem test_ink2ga_trap :
    seen (pend 0x12 [0x1b]) = [0x306, 0, 0, 0, 0x1b, 0, 0] := by decide

/-- Vector K22. -/
theorem test_pget_ink27 :
    seen (pend 0x13 [5] (pal := [(5, 0x9b)])) = [2, 0x1b, 0, 0, 0, 0, 0] := by decide

/-- Vector K20. -/
theorem test_pget_unset :
    seen (pend 0x13 [3]) = [0x406, 0, 0, 0, 3, 0, 0] := by decide

/-- Vector K26. -/
theorem test_pfind_skips_unset :
    seen (pend 0x14 [5] (pal := [(2, 5), (7, 0x85)])) = [2, 7, 1, 0, 0, 0, 0] := by decide

/-- Vector K25. -/
theorem test_pfind_excludes_border :
    seen (pend 0x14 [5] (pal := [(16, 0x85)])) = [2, 0, 0, 0, 0, 0, 0] := by decide

/-- Vectors D6 and D9: overscan crosses pages, from page 3 to page 0; and D4, where BUF 0b01 wraps in its page. -/
theorem test_danext :
    readReg (ran (pend 0x20 [] (da := 0x0FFF))) .da = 0x1C00 ∧
      readReg (ran (pend 0x20 [] (da := 0x0FFF))) .daaddr = 0x4000 ∧
      readReg (ran (pend 0x20 [] (da := 0x3FFF))) .da = 0x0C00 ∧
      readReg (ran (pend 0x20 [] (da := 0x07FF))) .da = 0x0400 := by
  decide

/-- Vector K29. -/
theorem test_rgbq :
    seen (pend 0x30 [0, 0x10, 2] (src := [0xff, 0xff, 0xff, 0, 0, 0x80])) = [2, 2, 0, 0, 0, 0, 0] ∧
      seenDmem (pend 0x30 [0, 0x10, 2] (src := [0xff, 0xff, 0xff, 0, 0, 0x80])) 0x10 3 = [0x1a, 1, 0] := by decide

/-- Vector K42. -/
theorem test_rgbq_source_end_saturates :
    seen (pend 0x30 [0xffffffff, 0x10, 1]) = [0x906, 0, 0, 0xffffffff, 0xffffffff, 0, 0] := by decide

/-- Vector K33. -/
theorem test_i2p_smallest_pen :
    seen (pend 0x31 [0, 0x10, 2] (src := [1, 1]) (pal := [(2, 0x81), (4, 0x81)])) =
        [2, 2, 0, 0, 0, 0, 0] ∧
      seenDmem (pend 0x31 [0, 0x10, 2] (src := [1, 1]) (pal := [(2, 0x81), (4, 0x81)])) 0x10 3 =
        [2, 2, 0] := by decide

/-- Vector K35. -/
theorem test_i2p_not_in_palette :
    seen (pend 0x31 [0, 0x10, 3] (src := [0x1a, 0x1a, 1]) (pal := [(0, 0x9a)])) =
        [0x506, 0, 0, 2, 1, 0, 0] ∧
      seenDmem (pend 0x31 [0, 0x10, 3] (src := [0x1a, 0x1a, 1]) (pal := [(0, 0x9a)])) 0x10 3 = [0, 0, 0] := by decide

/-- Vector K38. -/
theorem test_p2i_border :
    seen (pend 0x32 [0, 0x10, 1] (src := [0x10]) (pal := [(16, 0x94)])) = [2, 1, 0, 0, 0, 0, 0] ∧
      seenDmem (pend 0x32 [0, 0x10, 1] (src := [0x10]) (pal := [(16, 0x94)])) 0x10 2 = [0x14, 0] := by decide

/-- Vector K40. -/
theorem test_p2i_unset :
    seen (pend 0x32 [0, 0x10, 2] (src := [0, 3]) (pal := [(0, 0x9a)])) = [0x406, 0, 0, 1, 3, 0, 0] ∧
      seenDmem (pend 0x32 [0, 0x10, 2] (src := [0, 3]) (pal := [(0, 0x9a)])) 0x10 2 = [0, 0] := by decide

/-- Vector B6. -/
theorem test_penc_pads_and_clamps :
    seen (pend 0x533 [0, 0x10, 5, 4] (src := [0, 1, 2, 3, 3])) = [0x10002, 2, 0, 0, 0, 0, 0] ∧
      seenDmem (pend 0x533 [0, 0x10, 5, 4] (src := [0, 1, 2, 3, 3])) 0x10 3 = [0x53, 0x88, 0] := by decide

/-- Vector B4. -/
theorem test_penc_bad_replacement :
    seen (pend 0x433 [0, 0x10, 3, 0x10] (src := [1, 2, 3])) = [0x206, 0, 0, 3, 0x10, 0, 0] ∧
      seenDmem (pend 0x433 [0, 0x10, 3, 0x10] (src := [1, 2, 3])) 0x10 2 = [0, 0] := by decide

/-- Vector B15. -/
theorem test_pdec_mode2 :
    seen (pend 0x234 [0, 0x10, 1] (src := [0x81])) = [2, 8, 0, 0, 0, 0, 0] ∧
      seenDmem (pend 0x234 [0, 0x10, 1] (src := [0x81])) 0x10 9 = [1, 0, 0, 0, 0, 0, 0, 1, 0] := by decide

/-- Vector B19. -/
theorem test_pdec_destination :
    seen (pend 0x234 [0, 0xfff9, 1]) = [0x906, 0, 0, 0xfff9, 0x10001, 1, 0] := by decide

/-- Vector P1v. -/
theorem test_sprlin_stride :
    seen (pend 0x40 [0, 0x20, 2, 2, 4] (src := [0, 1, 0xee, 0xee, 0x10, 0x11])) = [2, 4, 0, 0, 0, 0, 0] ∧
      seenDmem (pend 0x40 [0, 0x20, 2, 2, 4] (src := [0, 1, 0xee, 0xee, 0x10, 0x11])) 0x20 5 =
        [0, 1, 0x10, 0x11, 0] := by decide

/-- Vector P5v. -/
theorem test_sprlin_destination :
    seen (pend 0x40 [0, 0xfffc, 4, 2, 4]) = [0x906, 0, 0, 0xfffc, 0x10004, 1, 0] := by decide

/-- Vector P6v. -/
theorem test_sprgray :
    seen (pend 0x41 [0, 0x20, 1, 8, 1] (src := column)) = [2, 8, 0, 0, 0, 0, 0] ∧
      seenDmem (pend 0x41 [0, 0x20, 1, 8, 1] (src := column)) 0x20 8 = grayColumn := by decide

/-- Vector P8v. -/
theorem test_sprgray_height_first :
    seen (pend 0x41 [0xffffffff, 0xffffffff, 1, 4, 1]) = [0x606, 0, 0, 4, 8, 0, 0] := by decide

/-- Vector P10v. -/
theorem test_sprungray :
    seen (pend 0x42 [0, 0x20, 1, 8, 1] (src := grayColumn)) = [2, 8, 0, 0, 0, 0, 0] ∧
      seenDmem (pend 0x42 [0, 0x20, 1, 8, 1] (src := grayColumn)) 0x20 8 = column := by decide

/-- Vector P11v. -/
theorem test_sprzz :
    seen (pend 0x43 [0, 0x20, 2, 8, 2] (src := twoColumns)) = [2, 0x10, 0, 0, 0, 0, 0] ∧
      seenDmem (pend 0x43 [0, 0x20, 2, 8, 2] (src := twoColumns)) 0x20 16 =
        [0, 1, 0x11, 0x10, 0x30, 0x31, 0x21, 0x20, 0x60, 0x61, 0x71, 0x70, 0x50, 0x51, 0x41, 0x40] := by decide

/-- Vector P15v. -/
theorem test_sprlrl :
    seen (pend 0x44 [0, 0x20, 3, 3, 3] (src := [0, 1, 2, 0x10, 0x11, 0x12, 0x20, 0x21, 0x22])) =
        [2, 9, 0, 0, 0, 0, 0] ∧
      seenDmem (pend 0x44 [0, 0x20, 3, 3, 3] (src := [0, 1, 2, 0x10, 0x11, 0x12, 0x20, 0x21, 0x22])) 0x20 9 =
        [0, 1, 2, 0x12, 0x11, 0x10, 0x20, 0x21, 0x22] := by decide

/-- Vector T2. -/
theorem test_tiles_flip :
    seen (pend 0x2045 [0, 0x20, 4, 2, 4, 0x20002, 0] (src := [0, 1, 2, 3, 0x10, 0x11, 0x12, 0x13])) =
        [2, 2, 4, 0, 0, 0, 0] ∧
      seenDmem (pend 0x2045 [0, 0x20, 4, 2, 4, 0x20002, 0] (src := [0, 1, 2, 3, 0x10, 0x11, 0x12, 0x13])) 0x20 8 =
        [0, 1, 0x11, 0x10, 2, 3, 0x13, 0x12] := by decide

/-- Vector T5. -/
theorem test_tiles_grid_mismatch :
    seen (pend 0x45 [0, 0x20, 4, 2, 4, 0x20002, 0x10003] (src := [0, 1, 2, 3, 0x10, 0x11, 0x12, 0x13])) =
        [0x706, 0, 0, 6, 2, 4, 2] := by decide

/-- Vector M5. -/
theorem test_memblk_overscan_pages :
    seen (pend 0x50 [0, 0, 4, 1, 4] (src := [0xa, 0xb, 0xc, 0xd]) (da := 0xfff) (scrdim := 0x102)) =
        [0x3340002, 0x1c01, 0, 0, 0, 0, 0] ∧
      seenPmem (pend 0x50 [0, 0, 4, 1, 4] (src := [0xa, 0xb, 0xc, 0xd]) (da := 0xfff) (scrdim := 0x102)) 0x7fe 3 =
        [0xa, 0xb, 0] ∧
      seenPmem (pend 0x50 [0, 0, 4, 1, 4] (src := [0xa, 0xb, 0xc, 0xd]) (da := 0xfff) (scrdim := 0x102)) 0x4000 3 =
        [0xc, 0xd, 0] := by decide

/-- Vector M9. -/
theorem test_memblk_crop_undersized :
    seen (pend 0x850 [0, 0, 2, 7, 2] (src := sevenRows) (da := 0x3000) (scrdim := 0x70101)) =
        [0x1820002, 0x3001, 0, 0, 0, 0, 0] ∧
      seenPmem (pend 0x850 [0, 0, 2, 7, 2] (src := sevenRows) (da := 0x3000) (scrdim := 0x70101)) 0xf000 2 =
        [0x60, 0x61] ∧
      seenPmem (pend 0x850 [0, 0, 2, 7, 2] (src := sevenRows) (da := 0x3000) (scrdim := 0x70101)) 0xf800 2 =
        [0, 0] := by decide

/-! ### Witnesses: concrete states and operands that meet the hypotheses of the statements -/

theorem witness_LegalWordsMatchTheTable :
    (¬ ∃ r ∈ maskMatch, (pend 0x00000100 []).snap.cmd &&& r.1 = r.2) ∧
      ¬ ∃ r ∈ maskMatch, (pend 0x00010001 []).snap.cmd &&& r.1 = r.2 := by decide

theorem witness_UnassignedOpcodesAreIllegal :
    ∀ w ∈ ([0x0B, 0x0F, 0x15, 0x1F, 0x21, 0x2F, 0x35, 0x3F, 0x46, 0x4F, 0x51, 0xFF, 0xFFFFFF0B] : List Word),
      (pend w []).snap.cmd.toNat % 256 ∈ unassigned := by
  simp [pend, acceptCommand, takeSnapshot, unassigned]

theorem witness_StepRunsTheDecodedCommand :
    ((pend 0x01 [0x102]).pending = true ∧ decode (pend 0x01 [0x102]).snap.cmd = .instr .enc0 ∧
      (pend 0x01 [0x102]).schedule = []) ∧
    (((pend 0 []).withFetchWord 32 0x01).pending = true ∧
      decode ((pend 0 []).withFetchWord 32 0x01).snap.cmd = .instr .enc0 ∧
      ((pend 0 []).withFetchWord 32 0x01).schedule = [.engine]) := by decide

theorem witness_NopOnlyCompletes :
    (pend 0xFFFFFF00 []).snap.cmd.toNat % 256 = 0 ∧ (pend 0xFFFFFF00 []).snap.cmd ≠ 0 := by decide

/-- The pen or ink in lane i of ARG0. -/
def lane0 (s : State) (i : Nat) : Nat := (lane s.snap.args[0] i).toNat

theorem witness_PairEncodersFollowTheBitMap :
    (lane0 (pend 1 [0x0F0F]) 0 ≤ 15 ∧ lane0 (pend 1 [0x0F0F]) 1 ≤ 15) ∧ lane0 (pend 1 [0x1010]) 0 > 15 ∧
      (lane0 (pend 1 [0x100F]) 0 ≤ 15 ∧ lane0 (pend 1 [0x100F]) 1 > 15) ∧
      (lane0 (pend 7 [0x0303]) 0 ≤ 3 ∧ lane0 (pend 7 [0x0303]) 1 ≤ 3) ∧ lane0 (pend 7 [0x0404]) 0 > 3 ∧
      (lane0 (pend 7 [0x0403]) 0 ≤ 3 ∧ lane0 (pend 7 [0x0403]) 1 > 3) := by decide

theorem witness_ScalarDecodersReadTheBitMap : (0xA5 : Byte) = lane (pend 2 [0xFFFFFFA5]).snap.args[0] 0 := by decide

theorem witness_Mix03LooksUpTheTable :
    ((3 : Byte) = lane (pend 9 [0x0303]).snap.args[0] 0 ∧ (3 : Byte) = lane (pend 9 [0x0303]).snap.args[0] 1) ∧
      (4 : Byte) = lane (pend 9 [0x0404]).snap.args[0] 0 ∧
      ((3 : Byte) = lane (pend 9 [0x0403]).snap.args[0] 0 ∧ (4 : Byte) = lane (pend 9 [0x0403]).snap.args[0] 1) := by
  decide

theorem witness_LimitTruncatesToTheMode :
    lane0 (pend 0x0A [0x10]) 0 ≤ 16 ∧ lane0 (pend 0x0A [0x11]) 0 > 16 := by decide

theorem witness_Rgb2inkFindsTheFirstNearestInk :
    (⟨0x80, 0x40, 0x01⟩ : Rgb) =
      ⟨(pend 0x10 [0xFF804001]).snap.args[0].extractLsb' 16 8, (pend 0x10 [0xFF804001]).snap.args[0].extractLsb' 8 8,
       (pend 0x10 [0xFF804001]).snap.args[0].extractLsb' 0 8⟩ := by decide

theorem witness_InkLookupsReadTheTables :
    lane0 (pend 0x11 [26]) 0 = (26 : Fin 27).val ∧ lane0 (pend 0x12 [0]) 0 = (0 : Fin 27).val ∧
      lane0 (pend 0x11 [27]) 0 > 26 := by decide

theorem witness_PgetReadsASetPen :
    (lane0 (pend 0x13 [16] (pal := [(16, 0x85)])) 0 = (16 : Fin 17).val ∧
      (pend 0x13 [16] (pal := [(16, 0x85)])).snap.pal[(16 : Fin 17)].valid = true) ∧
    (lane0 (pend 0x13 [0]) 0 = (0 : Fin 17).val ∧ (pend 0x13 [0]).snap.pal[(0 : Fin 17)].valid = false) ∧
      lane0 (pend 0x13 [17]) 0 > 16 := by decide

theorem witness_PfindFindsTheSmallestPen :
    (lane0 (pend 0x14 [31] (pal := [(15, 0x9F)])) 0 ≤ 31 ∧
      IsFirstPen (pend 0x14 [31] (pal := [(15, 0x9F)])).snap.pal 31 15) ∧
    (lane0 (pend 0x14 [31] (pal := [(16, 0x9F)])) 0 ≤ 31 ∧
      NoPen (pend 0x14 [31] (pal := [(16, 0x9F)])).snap.pal 31) ∧
      lane0 (pend 0x14 [32]) 0 > 31 := by
  unfold IsFirstPen NoPen holdsInk
  decide

/-- The source range of n bytes at ARG0 is in range. -/
def sourceOk (s : State) (n : Nat) : Prop := inRange s.cfg s.snap.args[0].toNat n

/-- The destination range of n bytes at ARG1 is in range. -/
def destinationOk (s : State) (n : Nat) : Prop := inRange s.cfg s.snap.args[1].toNat n

theorem witness_RgbqQuantizesABuffer :
    (¬ sourceOk (pend 0x30 [0xFFFE, 0x10, 1]) 3) ∧
      (sourceOk (pend 0x30 [0xFFFD, 0x10000, 1]) 3 ∧ ¬ destinationOk (pend 0x30 [0xFFFD, 0x10000, 1]) 1) ∧
      (sourceOk (pend 0x30 [0xFFFD, 0xFFFF, 1]) 3 ∧ destinationOk (pend 0x30 [0xFFFD, 0xFFFF, 1]) 1 ∧
        memWf (pend 0x30 [0xFFFD, 0xFFFF, 1]).dmem = true) := by
  unfold sourceOk destinationOk inRange
  decide

/-- Byte j of the source at ARG0. -/
def sourceByte (s : State) (j : Nat) : Byte := memRead s.snap.dmem (s.snap.args[0].toNat + j)

/-- I2P with one ink that is not an ink, with one no pen holds, and with pen 15 holding it, the destination ending at the
last byte of DMEM. -/
def i2pBad : State := pend 0x31 [0, 0x10, 2] (src := [0x1F, 0x20]) (pal := [(0, 0x9F)])
def i2pAbsent : State := pend 0x31 [0, 0x10, 2] (src := [0x1F, 0x1E]) (pal := [(0, 0x9F), (16, 0x9E)])
def i2pRuns : State := pend 0x31 [0, 0xFFFF, 1] (src := [0x1F]) (pal := [(15, 0x9F)])

theorem witness_I2pMapsInksToPens :
    (¬ sourceOk (pend 0x31 [0xFFFF, 0xFFFF, 2]) 2) ∧
      (sourceOk (pend 0x31 [0xFFFE, 0xFFFF, 2]) 2 ∧ ¬ destinationOk (pend 0x31 [0xFFFE, 0xFFFF, 2]) 2) ∧
      (sourceOk i2pBad 2 ∧ destinationOk i2pBad 2 ∧
        (∀ q < 1, (sourceByte i2pBad q).toNat ≤ 31 ∧ ¬ NoPen i2pBad.snap.pal (sourceByte i2pBad q).toNat) ∧
        (sourceByte i2pBad 1).toNat > 31) ∧
      (sourceOk i2pAbsent 2 ∧ destinationOk i2pAbsent 2 ∧
        (∀ q < 1, (sourceByte i2pAbsent q).toNat ≤ 31 ∧
          ¬ NoPen i2pAbsent.snap.pal (sourceByte i2pAbsent q).toNat) ∧
        (sourceByte i2pAbsent 1).toNat ≤ 31 ∧ NoPen i2pAbsent.snap.pal (sourceByte i2pAbsent 1).toNat) ∧
      (sourceOk i2pRuns 1 ∧ destinationOk i2pRuns 1 ∧ memWf i2pRuns.dmem = true ∧
        ∀ j < 1, (sourceByte i2pRuns j).toNat ≤ 31 ∧ ¬ NoPen i2pRuns.snap.pal (sourceByte i2pRuns j).toNat) := by
  unfold sourceOk destinationOk inRange NoPen holdsInk
  exact ⟨by decide, by decide, by decide, by decide, by decide⟩

/-- P2I with a byte that is no pen, with an unset pen, and with Border set, the destination ending at the last byte. -/
def p2iBad : State := pend 0x32 [0, 0x10, 2] (src := [0x10, 0x11]) (pal := [(16, 0x9F)])
def p2iUnset : State := pend 0x32 [0, 0x10, 2] (src := [0x10, 0x0F]) (pal := [(16, 0x9F)])
def p2iRuns : State := pend 0x32 [0, 0xFFFF, 1] (src := [0x10]) (pal := [(16, 0x9F)])

theorem witness_P2iMapsPensToInks :
    (¬ sourceOk (pend 0x32 [0xFFFF, 0xFFFF, 2]) 2) ∧
      (sourceOk (pend 0x32 [0xFFFE, 0xFFFF, 2]) 2 ∧ ¬ destinationOk (pend 0x32 [0xFFFE, 0xFFFF, 2]) 2) ∧
      (sourceOk p2iBad 2 ∧ destinationOk p2iBad 2 ∧
        (∀ q < 1, ∃ p : Fin 17, (sourceByte p2iBad q).toNat = p.val ∧ p2iBad.snap.pal[p].valid = true) ∧
        (sourceByte p2iBad 1).toNat > 16) ∧
      (sourceOk p2iUnset 2 ∧ destinationOk p2iUnset 2 ∧
        (∀ q < 1, ∃ p : Fin 17, (sourceByte p2iUnset q).toNat = p.val ∧ p2iUnset.snap.pal[p].valid = true) ∧
        (sourceByte p2iUnset 1).toNat = (15 : Fin 17).val ∧ p2iUnset.snap.pal[(15 : Fin 17)].valid = false) ∧
      (sourceOk p2iRuns 1 ∧ destinationOk p2iRuns 1 ∧ memWf p2iRuns.dmem = true ∧
        ∀ j < 1, ∃ p : Fin 17, (sourceByte p2iRuns j).toNat = p.val ∧ p2iRuns.snap.pal[p].valid = true) := by
  unfold sourceOk destinationOk inRange
  decide

/-- Pen i of PENC's padded sequence, with ARG2 = n. -/
def paddedPen (s : State) (i : Nat) : Byte :=
  if i < s.snap.args[2].toNat then memRead s.snap.dmem (s.snap.args[0].toNat + i) else lane s.snap.args[3] 0

/-- PENC in mode 0 with pen 16 second, in mode 3 with the replacement pen 4 rejected, and in mode 1 with no pen rejected,
the destination ending at the last byte of DMEM. -/
def pencBad0 : State := pend 0x033 [0, 0x10, 2] (src := [15, 16])
def pencBad3 : State := pend 0x733 [0, 0x10, 1, 4] (src := [3])
def pencRuns : State := pend 0x533 [0, 0xFFFE, 5, 4] (src := [0, 1, 2, 3, 16])

theorem witness_PencEncodesABuffer :
    (¬ sourceOk (pend 0x33 [0xFFFF, 0xFFFF, 2]) 2) ∧
      (sourceOk (pend 0x33 [0xFFFE, 0x10000, 2]) 2 ∧ ¬ destinationOk (pend 0x33 [0xFFFE, 0x10000, 2]) 1) ∧
      (sourceOk pencBad0 2 ∧ destinationOk pencBad0 1 ∧ (∀ j < 1, ¬ pencRejects .m0 (paddedPen pencBad0 j)) ∧
        pencRejects .m0 (paddedPen pencBad0 1)) ∧
      (sourceOk pencBad3 1 ∧ destinationOk pencBad3 1 ∧ (∀ j < 1, ¬ pencRejects .m3 (paddedPen pencBad3 j)) ∧
        pencRejects .m3 (paddedPen pencBad3 1)) ∧
      (sourceOk pencRuns 5 ∧ destinationOk pencRuns 2 ∧ memWf pencRuns.dmem = true ∧
        ∀ i < 2 * 4, ¬ pencRejects .m1 (paddedPen pencRuns i)) := by
  unfold sourceOk destinationOk inRange pencRejects
  exact ⟨by decide, by decide, by decide, by decide, by decide⟩

theorem witness_PdecDecodesABuffer :
    (¬ sourceOk (pend 0x234 [0xFFFF, 0x10, 2]) 2) ∧
      (sourceOk (pend 0x234 [0xFFFF, 0xFFF9, 1]) 1 ∧ ¬ destinationOk (pend 0x234 [0xFFFF, 0xFFF9, 1]) (1 * 8)) ∧
      (sourceOk (pend 0x234 [0xFFFF, 0xFFF8, 1]) 1 ∧ destinationOk (pend 0x234 [0xFFFF, 0xFFF8, 1]) (1 * 8) ∧
        memWf (pend 0x234 [0xFFFF, 0xFFF8, 1]).dmem = true) := by
  unfold sourceOk destinationOk inRange
  decide

/-- A row-order command on a sprite one byte wide and 8 rows high at the end of DMEM. -/
theorem witness_RowOrderCommandsCopyTheSprite :
    (true = true ∧ (pend 0x41 [0, 0x20, 1, 9, 1]).snap.args[3].toNat % 8 ≠ 0) ∧
      (¬ (true = true ∧ (pend 0x41 [0xFFF9, 0x20, 1, 8, 1]).snap.args[3].toNat % 8 ≠ 0) ∧
        ¬ sourceOk (pend 0x41 [0xFFF9, 0x20, 1, 8, 1]) (sourceLength 1 8 1)) ∧
      (sourceOk (pend 0x41 [0xFFF8, 0xFFF9, 1, 8, 1]) (sourceLength 1 8 1) ∧
        ¬ destinationOk (pend 0x41 [0xFFF8, 0xFFF9, 1, 8, 1]) (1 * 8)) ∧
      (sourceOk (pend 0x41 [0xFFF8, 0xFFF8, 1, 8, 1]) (sourceLength 1 8 1) ∧
        destinationOk (pend 0x41 [0xFFF8, 0xFFF8, 1, 8, 1]) (1 * 8) ∧
        memWf (pend 0x41 [0xFFF8, 0xFFF8, 1, 8, 1]).dmem = true) ∧
      (sourceOk (pend 0x40 [0xFFFFFFFF, 0xFFFFFFFF, 0, 9, 1]) (sourceLength 0 9 1) ∧
        destinationOk (pend 0x40 [0xFFFFFFFF, 0xFFFFFFFF, 0, 9, 1]) (0 * 9)) := by
  unfold sourceOk destinationOk inRange sourceLength
  decide

/-- Vectors T10 to T12 and the fourth rejected direction: RightToLeft, StartFromRightAndFlip, BottomToTop, FlipAtEnd. -/
theorem witness_TilesRejectsRightStartAndUpwardScans :
    seen (pend 0x1045 [0, 0x20, 4, 2, 4]) = [0xB06, 0, 0, 0x1045, 0, 0, 0] ∧
      seen (pend 0x3045 [0, 0x20, 4, 2, 4]) = [0xB06, 0, 0, 0x3045, 0, 0, 0] ∧
      seen (pend 0x4045 [0, 0x20, 4, 2, 4]) = [0xB06, 0, 0, 0x4045, 0, 0, 0] ∧
      seen (pend 0xC045 [0, 0x20, 4, 2, 4]) = [0xB06, 0, 0, 0xC045, 0, 0, 0] :=
  ⟨by decide, by decide, by decide, by decide⟩

/-- TILES with a grid one tile too wide, with tiles of 4 lines in gray-code order, with ranges one byte out, and with both
ranges ending at the last byte of DMEM. -/
def tilesWide : State := pend 0x0045 [0, 0x20, 4, 2, 4, 0x00020002, 0x00010003]
def tilesLow : State := pend 0x8045 [0, 0x20, 2, 8, 2, 0x00040000, 0]
def tilesSource : State := pend 0x0045 [0xFFF9, 0x20, 4, 2, 4, 0x00020002, 0]
def tilesDestination : State := pend 0x0045 [0xFFF8, 0xFFF9, 4, 2, 4, 0x00020002, 0]
def tilesRuns : State := pend 0x2045 [0xFFF8, 0xFFF8, 4, 2, 4, 0x00020002, 0]

theorem witness_TilesCutsTheGrid :
    (TileParameters tilesWide.snap 4 2 2 2 3 1 ∧ (3 * 2 > 4 ∨ 1 * 2 > 2)) ∧
      (TileParameters tilesLow.snap 2 8 2 4 1 2 ∧ 1 * 2 ≤ 2 ∧ 2 * 4 ≤ 8 ∧ 4 % 8 ≠ 0) ∧
      (TileParameters tilesSource.snap 4 2 2 2 2 1 ∧ ¬ sourceOk tilesSource (sourceLength 4 2 4)) ∧
      (TileParameters tilesDestination.snap 4 2 2 2 2 1 ∧ sourceOk tilesDestination (sourceLength 4 2 4) ∧
        ¬ destinationOk tilesDestination (2 * 1 * 2 * 2)) ∧
      (TileParameters tilesRuns.snap 4 2 2 2 2 1 ∧ 2 * 2 ≤ 4 ∧ 1 * 2 ≤ 2 ∧ sourceOk tilesRuns (sourceLength 4 2 4) ∧
        destinationOk tilesRuns (2 * 1 * 2 * 2) ∧ memWf tilesRuns.dmem = true ∧ 2 * 1 < 2 ^ 32) := by
  unfold TileParameters sourceOk destinationOk inRange sourceLength
  decide

/-- MEMBLK on a screen of one word column, one char row and 8 lines, with the sprite of its size: MRA one too large, the
sprite one line short, its range one byte out, its range ending at the last byte of DMEM. -/
def memblkMra : State := pend 0x050 [0, 0, 2, 9, 2] (scrdim := 0x080101)
def memblkShort : State := pend 0x050 [0, 0, 2, 7, 2] (scrdim := 0x070101)
def memblkSource : State := pend 0x050 [0xFFF1, 0, 2, 8, 2] (scrdim := 0x070101)
def memblkRuns : State := pend 0x050 [0xFFF0, 0, 2, 8, 2] (scrdim := 0x070101)

theorem witness_MemblkLaysOutTheScreen :
    memblkMra.snap.scrdim.toNat / 65536 > 7 ∧
      (memblkShort.snap.scrdim.toNat / 65536 ≤ 7 ∧ (2 ≠ 2 * (memblkShort.snap.scrdim.toNat % 256) ∨
        7 ≠ memblkShort.snap.scrdim.toNat / 256 % 256 * (memblkShort.snap.scrdim.toNat / 65536 + 1))) ∧
      (memblkSource.snap.scrdim.toNat / 65536 ≤ 7 ∧ (2 = 2 * (memblkSource.snap.scrdim.toNat % 256) ∧
        8 = memblkSource.snap.scrdim.toNat / 256 % 256 * (memblkSource.snap.scrdim.toNat / 65536 + 1)) ∧
        ¬ sourceOk memblkSource (sourceLength 2 8 2)) ∧
      (memblkRuns.snap.scrdim.toNat / 65536 ≤ 7 ∧ (2 = 2 * (memblkRuns.snap.scrdim.toNat % 256) ∧
        8 = memblkRuns.snap.scrdim.toNat / 256 % 256 * (memblkRuns.snap.scrdim.toNat / 65536 + 1)) ∧
        sourceOk memblkRuns (sourceLength 2 8 2)) := by
  unfold sourceOk inRange sourceLength
  decide

/-- The inner hypotheses of the screen's bytes: word 0, its last line and byte, and no later word at its address. -/
theorem witness_MemblkLaysOutTheScreen_byte :
    0 < 1 * 1 ∧ 7 ≤ 7 ∧ 1 < 2 ∧ 0 / 1 * (7 + 1) + 7 < 8 ∧ 0 % 1 * 2 + 1 < 2 ∧
      ∀ k' < 1 * 1, 0 < k' → wordsAfter memblkRuns.snap.da k' = wordsAfter memblkRuns.snap.da 0 → False := by
  decide

theorem witness_EngineKeepsTheHostsRegisters :
    engineStep (pend 1 [0x0102]) = .next (ran (pend 1 [0x0102])) ∧
      engineStep (pend 0x0B []) = .next (ran (pend 0x0B [])) := ⟨rfl, rfl⟩

theorem witness_CommandsWriteOnlyWhatTheyName :
    exec .nop (pend 0 []) = .next (ran (pend 0 [])) ∧ exec .danext (pend 0x20 []) = .next (ran (pend 0x20 [])) ∧
      exec (.memblk false) memblkRuns = .next (ran memblkRuns) := ⟨rfl, rfl, rfl⟩

theorem witness_PendingCommandCompletesInOneStep :
    (pend 0x31 [0, 0, 4]).pending = true ∧ (pend 0x31 [0, 0, 4]).schedule = [] := by decide

/-- A state with the given next moves. -/
def with_ (s : State) (evs : List Event) : State := { s with schedule := evs }

theorem witness_CmdWriteAcceptsACommand :
    State.reset.status.busy = false ∧
      (with_ State.reset [.regWrite 0x0C 4 0x0B]).schedule = [.regWrite 0x0C 4 0x0B] := by decide

theorem witness_PendingWindowRegisterAccesses :
    (State.reset.status.busy = false ∧ 0xFC % 4 = 0 ∧ 0xFC < 0x100 ∧
      (with_ State.reset [.regRead 0xFC 4]).schedule = [.regRead 0xFC 4]) ∧ (pend 0 []).status.busy = true ∧
      (∀ off ∈ [0x00, 0x04, 0x08, 0x0C, 0x10, 0xC0, 0xFC], off % 4 = 0 ∧ off < 0x100 ∧
        (with_ (pend 0 []) [.regRead off 4]).schedule = [.regRead off 4] ∧
        (with_ (pend 0 []) [.regWrite off 4 3]).schedule = [.regWrite off 4 3]) := by decide

theorem witness_HardwareResetClearsEveryRegister :
    (with_ (pend 1 []) [.hardReset [(0, 1)] []]).schedule = [.hardReset [(0, 1)] []] ∧ 0xFC % 4 = 0 ∧ 0xFC < 0x100 := by
  decide

theorem witness_HardwareResetTakesAnyMemoryContents :
    memWf [(0, 1), (0xFFFF, 0xFF)] = true ∧ memWithin State.reset.cfg.dmemSize.toNat [(0, 1), (0xFFFF, 0xFF)] = true ∧
      memWf [(0xFFFF, 2)] = true ∧ memWithin 0x10000 [(0xFFFF, 2)] = true := by decide

theorem witness_SoftResetClearsRegistersOnly :
    (with_ State.reset [.regWrite 0x04 4 2]).schedule = [.regWrite 0x04 4 2] ∧ (2 : Word).getLsbD 1 = true ∧
      State.reset.status.busy = false ∧ (pend 0 []).status.busy = true := by decide

theorem witness_StatusWriteClearsWrittenOnes :
    (with_ (ran (pend 0x0B [])) [.regWrite 0x08 4 0x0007000E]).schedule = [.regWrite 0x08 4 0x0007000E] := by decide

/-- A state in which DONE is set, and its fall by a W1C write, by a soft reset and by a hardware reset. -/
def doneThen (ev : Event) : State := with_ (ran (pend 0 [])) [ev]

theorem witness_StickyBitsFallOnlyByHostOrReset :
    (∀ ev ∈ [Event.regWrite 0x08 4 2, .regWrite 0x04 4 2, .hardReset [] []],
      (statusWord (doneThen ev).status).getLsbD 1 = true ∧ (statusWord (ran (doneThen ev)).status).getLsbD 1 = false) ∧
    step (doneThen (.regWrite 0x08 4 2)) = .next (ran (doneThen (.regWrite 0x08 4 2))) ∧
    step (doneThen (.regWrite 0x04 4 2)) = .next (ran (doneThen (.regWrite 0x04 4 2))) ∧
    step (doneThen (.hardReset [] [])) = .next (ran (doneThen (.hardReset [] []))) :=
  ⟨by decide, rfl, rfl, rfl⟩

/-- A state with NOP pending and a host move; one in which OVR is set, the host about to clear it. -/
def pendingThen (ev : Event) : State := with_ (pend 0 []) [ev]
def overrun : State := with_ (ran (pendingThen (.regWrite 0x10 4 0))) [.regWrite 0x08 4 8]

theorem witness_OverrunRecordsRefusedWrites :
    (∀ ev ∈ [Event.regWrite 0x10 4 0, .regWrite 0x0C 4 0, .regWrite 0x04 4 2],
      (pendingThen ev).status.ovr = false ∧ (ran (pendingThen ev)).status.ovr = true) ∧
    step (pendingThen (.regWrite 0x10 4 0)) = .next (ran (pendingThen (.regWrite 0x10 4 0))) ∧
    step (pendingThen (.regWrite 0x04 4 2)) = .next (ran (pendingThen (.regWrite 0x04 4 2))) ∧
    overrun.status.ovr = true ∧ step overrun = .next (ran overrun) ∧ (ran overrun).status.ovr = false :=
  ⟨by decide, rfl, rfl, by decide, rfl, by decide⟩

theorem witness_IrqIsIeAndDone :
    engineStep (pend 0 []) = .next (ran (pend 0 [])) ∧
      (with_ (ran (pend 0 [])) [.regWrite 0x08 4 2]).schedule = [.regWrite 0x08 4 2] ∧ (2 : Word).getLsbD 1 = true ∧
      (with_ (ran (pend 0 [])) [.regWrite 0x04 4 1]).schedule = [.regWrite 0x04 4 1] ∧ (1 : Word).getLsbD 1 = false :=
  ⟨rfl, rfl, rfl, rfl, rfl⟩

theorem witness_ReservedAndReadOnlyRegisters :
    (∀ off ∈ [0x60, 0x7C, 0xC4, 0xFC], off % 4 = 0 ∧ ((0x60 ≤ off ∧ off ≤ 0x7C) ∨ (0xC4 ≤ off ∧ off ≤ 0xFC)) ∧
      (with_ State.reset [.regWrite off 4 1]).schedule = [.regWrite off 4 1]) ∧
    State.reset.status.busy = false ∧ (with_ State.reset [.regWrite 0x5C 4 1]).schedule = [.regWrite 0x5C 4 1] := by
  decide

theorem witness_DerivedRegistersReadTheirFormulas :
    (0xFF : Nat) = (pend 0 [] (scrdim := 0x1FFEFF)).scrdim.toNat % 256 ∧
      (0xFE : Nat) = (pend 0 [] (scrdim := 0x1FFEFF)).scrdim.toNat / 256 % 256 ∧
      (31 : Nat) = (pend 0 [] (scrdim := 0x1FFEFF)).scrdim.toNat / 65536 := by decide

theorem witness_RegisterWritesReadBack :
    State.reset.status.busy = false ∧ (0xFFFFFFFD : Word).getLsbD 1 = false ∧
      (∀ off ∈ [0x04, 0x10, 0x2C, 0x48, 0x50, 0x80, 0xC0], off % 4 = 0 ∧
        (with_ State.reset [.regWrite off 4 0xFFFFFFFD]).schedule = [.regWrite off 4 0xFFFFFFFD]) := by decide

theorem witness_IllFormedRegisterAccessIsRefused :
    ((2 : Nat) ≠ 4 ∨ 0x10 % 4 ≠ 0) ∧ ((4 : Nat) ≠ 4 ∨ 0x11 % 4 ≠ 0) ∧
      (with_ State.reset [.regRead 0x10 2]).schedule = [.regRead 0x10 2] ∧
      (with_ State.reset [.regWrite 0x11 4 0]).schedule = [.regWrite 0x11 4 0] := by decide

theorem witness_PendingWindowMemoryAccessIsRefused :
    (pend 0 []).status.busy = true ∧ (with_ (pend 0 []) [.byteRead .dmem 0]).schedule = [.byteRead .dmem 0] ∧
      (with_ (pend 0 []) [.byteWrite .pmem 0xFFFF 1]).schedule = [.byteWrite .pmem 0xFFFF 1] := by decide

theorem witness_HostByteAccesses :
    State.reset.status.busy = false ∧ 0xFFFF < State.reset.cfg.dmemSize.toNat ∧ memWf State.reset.dmem = true ∧
      memWf State.reset.pmem = true ∧
      (with_ State.reset [.byteWrite .dmem 0xFFFF 1]).schedule = [.byteWrite .dmem 0xFFFF 1] ∧
      (with_ State.reset [.byteRead .pmem 0xFFFF]).schedule = [.byteRead .pmem 0xFFFF] := by decide

theorem witness_IdleBlockKeepsItsState :
    State.reset.pending = false ∧ State.reset.schedule = [] ∧ (with_ State.reset [.engine]).schedule = [.engine] := by
  decide

theorem witness_EveryStepKeepsTheInvariant :
    (pend 1 [0x0102]).Inv ∧ step (pend 1 [0x0102]) = .next (ran (pend 1 [0x0102])) :=
  ⟨⟨rfl, rfl, rfl, rfl, rfl, rfl, fun _ => rfl, nofun, by decide, rfl⟩, rfl⟩

theorem witness_ResetSatisfiesTheInvariant :
    defaultConfig.wf = true ∧ memWf [(0, 1), (0xFFFF, 0xFF)] = true ∧
      memWithin defaultConfig.dmemSize.toNat [(0, 1), (0xFFFF, 0xFF)] = true ∧ memWf [(0xFFFF, 2)] = true ∧
      memWithin 0x10000 [(0xFFFF, 2)] = true := by decide

theorem witness_ParametersNeverChange : step State.reset = .next (ran State.reset) := rfl

theorem witness_CodecRoundTrips :
    (15 : Byte).toNat < 16 ∧ (3 : Byte).toNat < 4 ∧ ∀ k < 8, ((fun _ => 1 : Nat → Byte) k).toNat < 2 := by decide

theorem witness_QuantizerIsIdempotent :
    (nearest defaultConfig ⟨0xC0, 0xC0, 0xC0⟩).1 = (26 : Fin 27).val := by decide

/-- SPRGRAY on a column, then SPRUNGRAY on its packed output; and the two the other way round. -/
def grayFirst : State := pend 0x41 [0, 0x20, 1, 8, 1] (src := column)
def ungraySecond : State := acceptCommand { ran grayFirst with args := #v[0x20, 0x40, 1, 8, 1, 0, 0, 0] } 0x42
def ungrayFirst : State := pend 0x42 [0, 0x20, 1, 8, 1] (src := column)
def graySecond : State := acceptCommand { ran ungrayFirst with args := #v[0x20, 0x40, 1, 8, 1, 0, 0, 0] } 0x41

theorem witness_GrayCodeRoundTrip :
    (memWf grayFirst.dmem = true ∧ memWf ungraySecond.dmem = true ∧ exec .sprgray grayFirst = .next (ran grayFirst) ∧
      (ran grayFirst).status.errcode = 0 ∧ readsOutputOf grayFirst (ran grayFirst) ungraySecond ∧
      exec .sprungray ungraySecond = .next (ran ungraySecond) ∧ (ran ungraySecond).status.errcode = 0 ∧
      exec .sprlin grayFirst = .next (nextOf (exec .sprlin grayFirst) grayFirst)) ∧
    (memWf ungrayFirst.dmem = true ∧ memWf graySecond.dmem = true ∧
      exec .sprungray ungrayFirst = .next (ran ungrayFirst) ∧
      (ran ungrayFirst).status.errcode = 0 ∧ readsOutputOf ungrayFirst (ran ungrayFirst) graySecond ∧
      exec .sprgray graySecond = .next (ran graySecond) ∧ (ran graySecond).status.errcode = 0) :=
  ⟨⟨by decide, by decide, rfl, by decide, ⟨rfl, rfl, rfl, rfl, rfl⟩, rfl, by decide, rfl⟩, by decide, by decide, rfl,
    by decide, ⟨rfl, rfl, rfl, rfl, rfl⟩, rfl, by decide⟩

/-- The round trip gives back the column (42_sprite_packers.md R234 item 1). -/
theorem test_gray_then_ungray : seenDmem ungraySecond 0x40 8 = column := by decide

def zigzag : State := pend 0x43 [0, 0x20, 2, 8, 2] (src := twoColumns)

theorem witness_ZigzagReversesOddRows :
    memWf zigzag.dmem = true ∧ exec .sprzz zigzag = .next (nextOf (exec .sprzz zigzag) zigzag) ∧
      exec .sprgray zigzag = .next (nextOf (exec .sprgray zigzag) zigzag) ∧
      (nextOf (exec .sprzz zigzag) zigzag).status.errcode = 0 ∧
      exec .sprlrl zigzag = .next (nextOf (exec .sprlrl zigzag) zigzag) ∧
      exec .sprlin zigzag = .next (nextOf (exec .sprlin zigzag) zigzag) ∧
      (nextOf (exec .sprlrl zigzag) zigzag).status.errcode = 0 :=
  ⟨by decide, rfl, rfl, by decide, rfl, rfl, by decide⟩

/-- Vector T7: one full-size tile. -/
def oneTile : State := pend 0xA045 [0, 0x20, 2, 8, 2, 0, 0] (src := twoColumns)

theorem witness_SingleTileEqualsRowOrder :
    memWf oneTile.dmem = true ∧ TileParameters oneTile.snap 2 8 2 8 1 1 ∧
      exec (.tiles .startFromLeftAndFlip .grayCodeFromTop) oneTile = .next (ran oneTile) ∧
      exec .sprzz oneTile = .next (nextOf (exec .sprzz oneTile) oneTile) := by
  refine ⟨by decide, ?_, rfl, rfl⟩
  unfold TileParameters
  decide

/-- The sticky sequence of spec/95_test_vectors.md 2.8: an error, then a NOP, then the W1C write. -/
theorem test_sticky_status :
    statusWord (ran (pend 0x0B [])).status = 0x106 ∧
      statusWord (ran (acceptCommand (ran (pend 0x0B [])) 0)).status = 0x006 ∧
      (ran (acceptCommand (ran (pend 0x0B [])) 0)).errinfo[0] = 0x0B ∧
      statusWord (ran (with_ (ran (acceptCommand (ran (pend 0x0B [])) 0)) [.regWrite 0x08 4 6])).status = 0 := by decide

/-- A host write of 0xFFFFFFFF to DA stores 0x3FFF (spec/95_test_vectors.md 2.6). -/
theorem test_da_write : (ran (with_ State.reset [.regWrite 0x48 4 0xFFFFFFFF])).da = 0x3FFF := by decide

/-- After the MIX03 of a pen 4 in lane 1 the host reads CMD, the BAD_PEN in STATUS, its lane in ERRINFO0 and the pen in
ERRINFO1 (10_state.md R21, 60_exceptions.md R312). -/
theorem test_stored_registers_read :
    ([0x08, 0x0C, 0x38, 0x3C, 0x40].map fun off =>
      (ran (with_ (ran (pend 9 [0x0403])) [.regRead off 4])).rdata) = [0x206, 9, 1, 4, 0] := by decide

/-- The host interface: the step after withFetchWord on the reset state runs the word (30_encoding.md R103, R104). -/
theorem test_withFetchWord : seen (State.reset.withFetchWord 32 0x0000) = [2, 0, 0, 0, 0, 0, 0] := by decide

/-- The value a wide read returned, or none where it stopped. -/
def wideSeen (o : Host.Outcome (State × Nat) Fault Refusal) : Option Nat :=
  match o with
  | .next (_, v) => some v
  | _ => none

/-- DMEM bytes 00 10 20 30 read 32 bits wide from an odd address and from address 0: the lowest address is the least
significant byte (20_memory.md R69). The read in the pending window is refused (R357). -/
theorem test_wide_read :
    wideSeen (wideReadUninterrupted .dmem 0 4 (idle [] column [] 0 0)) = some 0x30201000 ∧
      wideSeen (wideReadUninterrupted .dmem 1 8 (idle [] column [] 0 0)) = some 0x0070605040302010 ∧
      wideSeen (wideReadUninterrupted .dmem 0 4 (pend 0 [])) = none := by decide

/-- A 16-bit read between whose bytes another host stores to the second: no atomicity (20_memory.md R69). The store is a
wide write of two bytes, low byte first. -/
theorem test_wide_read_interrupted :
    isWideRead .dmem 1 2 ((.byteRead .dmem 1, true) :: (wideWrite .dmem 1 2 0xBBAA).map (·, false) ++
        [(.byteRead .dmem 2, true)]) = true ∧
      wideSeen (wideReadValue ((.byteRead .dmem 1, true) :: (wideWrite .dmem 1 2 0xBBAA).map (·, false) ++
        [(.byteRead .dmem 2, true)]) (idle [] column [] 0 0)) = some 0xBB10 := by decide

/-- Host accesses that stop the machine (20_memory.md R61 to R63, R68; log entry 8): the last byte of a space is reached,
the one after it is not. -/
theorem test_host_accesses_outside :
    step (with_ State.reset [.byteRead .dmem 0x10000]) = .fault (.outsideDmem 0x10000) ∧
      step (with_ State.reset [.byteWrite .pmem 0x10000 1]) = .fault (.outsidePmem 0x10000) ∧
      step (with_ State.reset [.regRead 0x100 4]) = .fault (.outsideReg 0x100) ∧
      step (with_ State.reset [.regRead 0x02 4]) = .refused (.regAccessForm 0x02 4) ∧
      step (with_ (pend 0 []) [.byteRead .dmem 0]) = .refused (.pendingWindowAccess .dmem 0) :=
  ⟨rfl, rfl, rfl, rfl, rfl⟩

end Sys2Proof.Tests
end

/-! The parameters of 00_scope.md R6 are held in State (log entry 3); no operation writes them. -/

namespace Sys2Proof.Proofs

open Sys2Proof Sys2Proof.Machine Sys2Proof.Laws

/-! ### The parameters under each operation of a step -/

@[simp] theorem completeCommand_cfg (s : State) (o : CmdOutcome) : (completeCommand s o).cfg = s.cfg := by
  cases o with
  | raise e => simp
  | commit fx => simp

/-- A soft reset keeps the parameters, and so does every register write that is not one. -/
@[simp] theorem writeRegIdle_cfg (s : State) (r : Reg) (v : Word) : (writeRegIdle s r v).cfg = s.cfg := by
  cases r with
  | ctrl =>
    simp only [writeRegIdle]
    split
    · exact resetRegisters_cfg s
    · rfl
  | cmd => exact acceptCommand_cfg s v
  | _ => rfl

@[simp] theorem writeRegBusy_cfg (s : State) (r : Reg) (v : Word) : (writeRegBusy s r v).cfg = s.cfg := by
  cases r <;> rfl

@[simp] theorem writeReg_cfg (s : State) (r : Reg) (v : Word) : (writeReg s r v).cfg = s.cfg := by
  unfold writeReg
  split
  · exact writeRegBusy_cfg s r v
  · exact writeRegIdle_cfg s r v

@[simp] theorem writeByte_cfg (s : State) (space : MemSpace) (a : Nat) (b : Byte) :
    (writeByte s space a b).cfg = s.cfg := by
  cases space with
  | dmem => exact writeByte_dmem_cfg s a b
  | pmem => exact writeByte_pmem_cfg s a b

/-! ### The parameters under each move -/

/-- The engine's turn completes a command with some outcome, or does nothing (00_scope.md R12). -/
theorem engineTurn_completes_or_keeps {s t : State} (h : engineTurn s = .next t) :
    (∃ o, t = completeCommand s o) ∨ t = s := by
  obtain ⟨-, hturn⟩ | ⟨-, hturn⟩ := engineTurn_cases s
  · left
    obtain ⟨i, -, hstep⟩ | ⟨e, -, hstep⟩ := engineStep_cases s
    · exact ⟨commandOutcome i s, by simpa [hturn, hstep] using h.symm⟩
    · exact ⟨.raise (.illegalOpcode s.snap.cmd), by simpa [hturn, hstep] using h.symm⟩
  · right
    simpa [hturn] using h.symm

theorem engineTurn_cfg {s t : State} (h : engineTurn s = .next t) : t.cfg = s.cfg := by
  obtain ⟨o, rfl⟩ | rfl := engineTurn_completes_or_keeps h
  · exact completeCommand_cfg s o
  · rfl

theorem runEvent_cfg {ev : Event} {s t : State} (h : runEvent ev s = .next t) : t.cfg = s.cfg := by
  obtain ⟨-, hengine⟩ | ⟨_, -, -, -, rfl⟩ | ⟨offset, v, -, -, -, rfl⟩ | ⟨_, _, -, -, rfl⟩ |
    ⟨space, a, b, -, -, -, rfl⟩ | ⟨d, p, -, rfl⟩ := runEvent_next h
  · exact engineTurn_cfg hengine
  · rfl
  · exact writeReg_cfg s (regAt offset) v
  · rfl
  · exact writeByte_cfg s space a b
  · exact hardReset_cfg s d p

/-- Settles O52, by the kinds of move a step can make: the engine's completion, the host's accesses and the hardware
reset each keep the parameter record. -/
theorem parametersNeverChange : Obligations.ParametersNeverChange := by
  intro s t h
  obtain ⟨-, hturn⟩ | ⟨ev, rest, -, hmove⟩ := step_next h
  · exact engineTurn_cfg hturn
  · have hkept : t.cfg = { s with schedule := rest }.cfg := runEvent_cfg hmove
    exact hkept

end Sys2Proof.Proofs

/-! What a successful command schedules (00_scope.md R9, 30_encoding.md R104): one shape for each kind of command, then
the frame of 10_state.md R34 read off the shapes. -/

namespace Sys2Proof.Proofs

open Sys2Proof Sys2Proof.Machine Sys2Proof.Laws Sys2Proof.Claims

/-! ### The shapes of what commands commit -/

/-- A check that raises an error commits only past the check. -/
theorem ite_raise_eq_commit {c : Prop} [Decidable c] {e : CmdError} {o : CmdOutcome} {fx : Effects} :
    (if c then .raise e else o) = .commit fx ↔ ¬ c ∧ o = .commit fx := by
  split <;> simp [*]

/-- n bytes written one after another from dst. -/
def packed (dst n : Nat) (f : Nat → Byte) : List Host.Cell := (List.range n).map fun j => (dst + j, f j)

/-- A packed output in range lies inside DMEM (20_memory.md R72). -/
theorem packed_inside {cfg : Config} {dst n : Nat} {f : Nat → Byte} (h : rangeOk cfg dst n) :
    ∀ c ∈ packed dst n f, c.1 < cfg.dmemSize.toNat := by
  intro c hc
  obtain ⟨j, hj, rfl⟩ := List.mem_map.1 hc
  have hjn : j < n := List.mem_range.1 hj
  rcases h with h | h
  · omega
  · show dst + j < _
    omega

/-- The commands whose one result is RES0. -/
def writesOnlyRes0 : Instr → Bool
  | .enc0 | .dec0 | .dec1 | .enc3 | .dec3 | .mix03 | .limit _ | .ink2rgb | .ink2ga | .pget => true
  | _ => false

theorem writesOnlyRes0_commit {i : Instr} {s : State} {fx : Effects} (hi : writesOnlyRes0 i = true)
    (h : commandOutcome i s = .commit fx) : ∃ r, fx = { res0 := some r } := by
  cases i with
  | enc0 | enc3 | mix03 =>
    simp only [commandOutcome, runEnc0, runEnc3, runMix03, ite_raise_eq_commit, CmdOutcome.commit.injEq] at h
    obtain ⟨-, -, rfl⟩ := h
    exact ⟨_, rfl⟩
  | limit | ink2rgb | ink2ga =>
    simp only [commandOutcome, runLimit, runInk2rgb, runInk2ga, ite_raise_eq_commit, CmdOutcome.commit.injEq] at h
    obtain ⟨-, rfl⟩ := h
    exact ⟨_, rfl⟩
  | dec0 | dec1 | dec3 =>
    cases h
    exact ⟨_, rfl⟩
  | pget =>
    simp only [commandOutcome, runPget] at h
    split at h <;> cases h
    exact ⟨_, rfl⟩
  | _ => cases hi

/-- The commands that write RES0 and one packed DMEM output, without a warning. -/
def writesPackedOutput : Instr → Bool
  | .rgbq | .i2p | .p2i | .pdec _ | .sprlin | .sprgray | .sprungray | .sprzz | .sprlrl => true
  | _ => false

/-- RES0 and a packed output in range, starting at ARG1. -/
def IsPackedOutput (s : State) (fx : Effects) : Prop :=
  ∃ r n f, rangeOk s.cfg (argNat s.snap 1) n ∧ fx = { res0 := some r, dmem := packed (argNat s.snap 1) n f }

theorem spriteCopy_commit {s : State} {fx : Effects} {row : Nat → Nat} {col : Nat → Nat → Nat → Nat}
    (h : spriteCopy s.cfg s.snap row col = .commit fx) : IsPackedOutput s fx := by
  obtain ⟨-, hc⟩ | ⟨-, -, hc⟩ | ⟨-, hdst, hc⟩ := spriteCopy_cases s.cfg s.snap row col <;>
    rw [hc] at h <;> cases h
  refine ⟨_, _, _, ?_, by rw [packedRows_eq]; rfl⟩
  rwa [Nat.mul_comm]

theorem writesPackedOutput_commit {i : Instr} {s : State} {fx : Effects} (hi : writesPackedOutput i = true)
    (h : commandOutcome i s = .commit fx) : IsPackedOutput s fx := by
  cases i with
  | rgbq =>
    simp only [commandOutcome, runRgbq, ite_raise_eq_commit, not_not, CmdOutcome.commit.injEq] at h
    obtain ⟨-, hdst, rfl⟩ := h
    exact ⟨_, _, _, hdst, rfl⟩
  | i2p | p2i =>
    simp only [commandOutcome, runI2p, runP2i, ite_raise_eq_commit, not_not] at h
    obtain ⟨-, hdst, h⟩ := h
    split at h <;> cases h
    exact ⟨_, _, _, hdst, rfl⟩
  | pdec mode =>
    simp only [commandOutcome, runPdec, ite_raise_eq_commit, not_not, CmdOutcome.commit.injEq] at h
    obtain ⟨-, hdst, rfl⟩ := h
    exact ⟨_, _, _, hdst, by rw [packedRows_eq]; rfl⟩
  | sprlin | sprlrl => exact spriteCopy_commit h
  | sprgray | sprungray | sprzz =>
    simp only [commandOutcome, runSprgray, runSprungray, runSprzz, ite_raise_eq_commit] at h
    exact spriteCopy_commit h.2
  | _ => cases hi

/-- PENC: a packed output, and W_CLAMP in modes 1 and 2 at most (40_pixel_codec.md R145). -/
theorem penc_commit {mode : Mode} {tail : Tail} {s : State} {fx : Effects}
    (h : commandOutcome (.penc mode tail) s = .commit fx) :
    ∃ r n f c, rangeOk s.cfg (argNat s.snap 1) n ∧ (mayClamp (.penc mode tail) = false → c = false) ∧
      fx = { res0 := some r, dmem := packed (argNat s.snap 1) n f, warnings := { noWarnings with clamp := c } } := by
  simp only [commandOutcome, runPenc, ite_raise_eq_commit, not_not] at h
  obtain ⟨-, hdst, h⟩ := h
  split at h <;> cases h
  refine ⟨_, _, _, _, hdst, fun hc => ?_, rfl⟩
  cases mode with
  | m0 | m3 => simp [penWarns]
  | m1 | m2 => cases hc

/-- TILES: a packed output, RES0 and RES1 (42_sprite_packers.md R233). -/
theorem tiles_commit {hdir : HDir} {vdir : VDir} {s : State} {fx : Effects}
    (h : commandOutcome (.tiles hdir vdir) s = .commit fx) :
    ∃ r0 r1 n f used, rangeOk s.cfg (argNat s.snap 1) n ∧
      fx = { res0 := some r0, res1 := some r1, dmem := packed (argNat s.snap 1) n f, freeUsed := used } := by
  simp only [commandOutcome, runTiles] at h
  split at h
  case h_2 => cases h
  simp only [tilesBody, ite_raise_eq_commit, not_not, CmdOutcome.commit.injEq] at h
  obtain ⟨-, -, -, hdst, rfl⟩ := h
  refine ⟨_, _, _, _, _, ?_, by rw [tileWrites_eq]; rfl⟩
  have hlen (gw gh tw th : Nat) : gh * gw * (th * tw) = gw * gh * tw * th := by ring
  rwa [hlen]

/-- MEMBLK: RES0, PMEM cleared and written inside its 64 KiB, a page mask with its kind (43_memory_block.md R276). -/
theorem memblk_commit {crop : Bool} {s : State} {fx : Effects} (h : commandOutcome (.memblk crop) s = .commit fx) :
    ∃ r ws pm use2b d p, (∀ c ∈ ws, c.1 < pmemSize) ∧
      fx = { res0 := some r, clearPmem := true, pmem := ws, memblk := some (pm, (pageKind pm use2b).1),
             warnings := ⟨false, d, p⟩ } := by
  simp only [commandOutcome, runMemblk, ite_raise_eq_commit, not_not, CmdOutcome.commit.injEq] at h
  obtain ⟨hmra, -, -, rfl⟩ := h
  refine ⟨_, _, _, _, _, _, fun c hc => ?_, rfl⟩
  rw [walkScreen_eq] at hc
  obtain ⟨t, -, hc⟩ := List.mem_flatMap.1 hc
  obtain ⟨l, hl, b, hb, -, rfl⟩ := mem_wordWrites.1 hc
  exact wordByteAddr_lt (by omega) hb

/-! ### The frame of what a command commits -/

/-- The effects name nothing but what their command may write (10_state.md R31, R34, R36; 60_exceptions.md R313). -/
structure NamedBy (i : Instr) (fx : Effects) : Prop where
  da : i ≠ .danext → fx.da = none
  dmem : writesDmem i = false → fx.dmem = []
  pmem : (∀ crop, i ≠ .memblk crop) → fx.clearPmem = false ∧ fx.pmem = []
  memblk : (∀ crop, i ≠ .memblk crop) → fx.memblk = none ∧ fx.warnings.dim = false ∧ fx.warnings.pages = false
  clamp : mayClamp i = false → fx.warnings.clamp = false
  res1 : namesRes1 i = false → fx.res1 = none
  res0 : i = .nop ∨ i = .danext → fx.res0 = none
  freeUsed : (∀ hdir vdir, i ≠ .tiles hdir vdir) → fx.freeUsed = 0

theorem commandOutcome_namedBy {i : Instr} {s : State} {fx : Effects} (h : commandOutcome i s = .commit fx) :
    NamedBy i fx := by
  cases i with
  | nop | danext | enc1 | enc2 | dec2 | rgb2ink =>
    cases h
    constructor <;> simp [writesDmem, mayClamp, namesRes1, noWarnings]
  | pfind =>
    simp only [commandOutcome, runPfind, ite_raise_eq_commit] at h
    obtain ⟨-, h⟩ := h
    split at h <;> cases h <;> constructor <;> simp [namesRes1, noWarnings]
  | enc0 | dec0 | dec1 | enc3 | dec3 | mix03 | limit | ink2rgb | ink2ga | pget =>
    obtain ⟨r, rfl⟩ := writesOnlyRes0_commit rfl h
    constructor <;> simp [noWarnings]
  | rgbq | i2p | p2i | pdec | sprlin | sprgray | sprungray | sprzz | sprlrl =>
    obtain ⟨r, n, f, -, rfl⟩ := writesPackedOutput_commit rfl h
    constructor <;> simp [writesDmem, noWarnings]
  | penc =>
    obtain ⟨r, n, f, c, -, hclamp, rfl⟩ := penc_commit h
    constructor
    case clamp => exact hclamp
    all_goals simp [writesDmem, noWarnings]
  | tiles =>
    obtain ⟨r0, r1, n, f, used, -, rfl⟩ := tiles_commit h
    constructor <;> simp [writesDmem, namesRes1, noWarnings]
  | memblk =>
    obtain ⟨r, ws, pm, use2b, d, p, -, rfl⟩ := memblk_commit h
    constructor <;> simp

theorem commit_dmem_inside {i : Instr} {s : State} {fx : Effects} (h : commandOutcome i s = .commit fx) :
    ∀ c ∈ fx.dmem, c.1 < s.cfg.dmemSize.toNat := by
  cases hw : writesDmem i with
  | false => simp [(commandOutcome_namedBy h).dmem hw]
  | true =>
    cases i with
    | rgbq | i2p | p2i | pdec | sprlin | sprgray | sprungray | sprzz | sprlrl =>
      obtain ⟨r, n, f, hdst, rfl⟩ := writesPackedOutput_commit rfl h
      exact packed_inside hdst
    | penc =>
      obtain ⟨r, n, f, c, hdst, -, rfl⟩ := penc_commit h
      exact packed_inside hdst
    | tiles =>
      obtain ⟨r0, r1, n, f, used, hdst, rfl⟩ := tiles_commit h
      exact packed_inside hdst
    | _ => cases hw

/-- A command is MEMBLK, or it is another. -/
theorem eq_memblk_or (i : Instr) : (∃ crop, i = .memblk crop) ∨ ∀ crop, i ≠ .memblk crop := by
  by_cases h : ∃ crop, i = .memblk crop
  · exact .inl h
  · exact .inr fun crop hi => h ⟨crop, hi⟩

theorem commit_pmem_inside {i : Instr} {s : State} {fx : Effects} (h : commandOutcome i s = .commit fx) :
    ∀ c ∈ fx.pmem, c.1 < pmemSize := by
  obtain ⟨crop, rfl⟩ | hi := eq_memblk_or i
  · obtain ⟨r, ws, pm, use2b, d, p, hws, rfl⟩ := memblk_commit h
    exact hws
  · simp [((commandOutcome_namedBy h).pmem hi).2]

/-- MEMBLK's result kind fits the pages it marked (43_memory_block.md R277). -/
theorem kindFits_pageKind (st : Status) (pm : BitVec 4) (use2b : Bool) :
    kindFits { st with pageMask := pm, memKind := (pageKind pm use2b).1 } = true := by
  unfold pageKind
  split
  next h1 => simp [kindFits, h1]
  next h1 =>
    split
    next h2 => simp [kindFits, h2.1]
    next => simp [kindFits, h1]

theorem commit_kindFits {i : Instr} {s : State} {fx : Effects} {st : Status} (h : commandOutcome i s = .commit fx)
    (hst : kindFits st = true) : kindFits (statusSuccess st fx.warnings fx.memblk) = true := by
  obtain ⟨crop, rfl⟩ | hi := eq_memblk_or i
  · obtain ⟨r, ws, pm, use2b, d, p, -, rfl⟩ := memblk_commit h
    exact kindFits_pageKind st pm use2b
  · rw [((commandOutcome_namedBy h).memblk hi).1]
    exact hst

end Sys2Proof.Proofs

/-! What a completion leaves unchanged (10_state.md R33, R34, 60_exceptions.md R315, R319), and the frame of every
command. -/

namespace Sys2Proof.Proofs

open Sys2Proof Sys2Proof.Machine Sys2Proof.Laws Sys2Proof.Claims

/-- A completion, whatever its outcome, writes no register of the host's and none of the model's own fields but the
free-value counter. -/
theorem completeCommand_keeps_host_registers (s : State) (o : CmdOutcome) :
    (completeCommand s o).args = s.args ∧ (completeCommand s o).scrdim = s.scrdim ∧
      (completeCommand s o).pal = s.pal ∧ (completeCommand s o).ie = s.ie ∧ (completeCommand s o).cmd = s.cmd ∧
      (completeCommand s o).cfg = s.cfg ∧ (completeCommand s o).schedule = s.schedule ∧
      (completeCommand s o).rdata = s.rdata := by
  cases o with
  | raise e => simp
  | commit fx => simp

/-- The engine's step is a completion with some outcome. -/
theorem engineStep_completes {s t : State} (h : engineStep s = .next t) : ∃ o, t = completeCommand s o := by
  obtain ⟨i, -, hstep⟩ | ⟨e, -, hstep⟩ := engineStep_cases s <;> rw [hstep] at h <;> cases h
  · exact ⟨commandOutcome i s, rfl⟩
  · exact ⟨.raise (.illegalOpcode s.snap.cmd), rfl⟩

/-- Settles O29: an engine step is a completion, and a completion keeps the host's registers. -/
theorem engineKeepsTheHostsRegisters : Obligations.EngineKeepsTheHostsRegisters := by
  intro s t h
  obtain ⟨o, rfl⟩ := engineStep_completes h
  exact completeCommand_keeps_host_registers s o

/-- What a commit of effects named by its command leaves unchanged. -/
theorem commitCommand_frame {i : Instr} {fx : Effects} (s : State) (h : NamedBy i fx) :
    (i ≠ .danext → (commitCommand s fx).da = s.da) ∧
    (writesDmem i = false → (commitCommand s fx).dmem = s.dmem) ∧
    ((∀ crop, i ≠ .memblk crop) → (commitCommand s fx).pmem = s.pmem ∧
      (commitCommand s fx).status.pageMask = s.status.pageMask ∧
      (commitCommand s fx).status.memKind = s.status.memKind ∧
      (commitCommand s fx).status.wDim = s.status.wDim ∧ (commitCommand s fx).status.wPages = s.status.wPages) ∧
    (mayClamp i = false → (commitCommand s fx).status.wClamp = s.status.wClamp) ∧
    (namesRes1 i = false → (commitCommand s fx).res1 = s.res1) ∧
    ((i = .nop ∨ i = .danext) → (commitCommand s fx).res0 = s.res0) ∧
    ((∀ hdir vdir, i ≠ .tiles hdir vdir) → (commitCommand s fx).freeCount = s.freeCount) := by
  refine ⟨fun hi => ?_, fun hi => ?_, fun hi => ?_, fun hi => ?_, fun hi => ?_, fun hi => ?_, fun hi => ?_⟩
  · simp [h.da hi]
  · simp [h.dmem hi]
  · simp [h.pmem hi, h.memblk hi, statusSuccess]
  · simp [h.clamp hi, statusSuccess]
  · simp [h.res1 hi]
  · simp [h.res0 hi]
  · simp [h.freeUsed hi]

/-- Settles O30: an error writes none of these fields, and a commit writes those its command names. -/
theorem commandsWriteOnlyWhatTheyName : Obligations.CommandsWriteOnlyWhatTheyName := by
  intro i s t h
  rw [exec_eq_complete] at h
  cases h
  obtain ⟨e, -, ht⟩ | ⟨fx, hfx, ht⟩ := completeCommand_cases s (commandOutcome i s) <;> rw [ht]
  · simp [statusError]
  · obtain ⟨hda, hdmem, hpmem, hclamp, hres1, hres0, hfree⟩ := commitCommand_frame s (commandOutcome_namedBy hfx)
    refine ⟨hda, fun hi a => by rw [hdmem hi], fun hi => ?_, hclamp, hres1, hres0, hfree⟩
    obtain ⟨hmem, hstatus⟩ := hpmem hi
    exact ⟨fun a => by rw [hmem], hstatus⟩

end Sys2Proof.Proofs

/-! The invariant of Sys2Proof/Safety.lean under each operation of a step, and after a reset. -/

namespace Sys2Proof.Proofs

open Sys2Proof Sys2Proof.Machine Sys2Proof.Laws Sys2Proof.Claims

/-! ### Completions -/

theorem errorCode_known (e : CmdError) : (errorCode e).toNat ≤ 0x0B := by
  cases e <;> simp [errorCode]

theorem inv_recordError {s : State} (h : s.Inv) (e : CmdError) : (recordError s e).Inv where
  cfgWf := h.cfgWf
  dmemWf := h.dmemWf
  dmemWithin := h.dmemWithin
  pmemWf := h.pmemWf
  pmemWithin := h.pmemWithin
  busyPending := rfl
  snapTaken := nofun
  snapDiscarded _ := rfl
  errcodeKnown := errorCode_known e
  kindFits := h.kindFits

/-- A commit keeps the invariant: the command's writes lie inside their spaces, and its page mask and kind fit. -/
theorem inv_commitCommand {i : Instr} {s : State} {fx : Effects} (h : s.Inv)
    (hfx : commandOutcome i s = .commit fx) : (commitCommand s fx).Inv where
  cfgWf := h.cfgWf
  dmemWf := memWf_memWriteAll h.dmemWf fx.dmem
  dmemWithin := memWithin_memWriteAll h.dmemWithin (commit_dmem_inside hfx)
  pmemWf := by
    refine memWf_memWriteAll ?_ fx.pmem
    split
    · rfl
    · exact h.pmemWf
  pmemWithin := by
    refine memWithin_memWriteAll ?_ (commit_pmem_inside hfx)
    split
    · rfl
    · exact h.pmemWithin
  busyPending := rfl
  snapTaken := nofun
  snapDiscarded _ := rfl
  errcodeKnown := Nat.zero_le _
  kindFits := commit_kindFits hfx h.kindFits

theorem inv_engineStep {s t : State} (h : s.Inv) (hstep : engineStep s = .next t) : t.Inv := by
  obtain ⟨i, -, hi⟩ | ⟨-, -, hi⟩ := engineStep_cases s <;> rw [hi] at hstep <;> cases hstep
  · obtain ⟨e, -, ht⟩ | ⟨fx, hfx, ht⟩ := completeCommand_cases s (commandOutcome i s) <;> rw [ht]
    · exact inv_recordError h e
    · exact inv_commitCommand h hfx
  · exact inv_recordError h _

theorem inv_engineTurn {s t : State} (h : s.Inv) (hturn : engineTurn s = .next t) : t.Inv := by
  obtain ⟨-, heq⟩ | ⟨-, heq⟩ := engineTurn_cases s <;> rw [heq] at hturn
  · exact inv_engineStep h hturn
  · cases hturn
    exact h

/-! ### The state after a reset -/

theorem inv_resetWith {cfg : Config} {d p : Memory} (hcfg : cfg.wf = true) (hd : memWf d = true)
    (hdw : memWithin cfg.dmemSize.toNat d = true) (hp : memWf p = true) (hpw : memWithin pmemSize p = true) :
    (State.resetWith cfg d p).Inv where
  cfgWf := hcfg
  dmemWf := hd
  dmemWithin := hdw
  pmemWf := hp
  pmemWithin := hpw
  busyPending := rfl
  snapTaken := nofun
  snapDiscarded _ := rfl
  errcodeKnown := Nat.zero_le _
  kindFits := rfl

/-! ### The host's accesses -/

/-- The invariant does not read CTRL.IE, the schedule or the value last read. -/
theorem inv_unread {s : State} (h : s.Inv) (ie : Bool) (schedule : List Event) (rdata : Word) :
    { s with ie := ie, schedule := schedule, rdata := rdata }.Inv where
  __ := h

/-- The sticky bits of STATUS are no part of the invariant. -/
theorem inv_sticky {s : State} (h : s.Inv) (done err ovr wClamp wDim wPages : Bool) :
    { s with status := { s.status with
        done := done, err := err, ovr := ovr, wClamp := wClamp, wDim := wDim, wPages := wPages } }.Inv where
  __ := h

theorem inv_acceptCommand {s : State} (h : s.Inv) (v : Word) : (acceptCommand s v).Inv where
  __ := h
  busyPending := rfl
  snapTaken _ := rfl
  snapDiscarded := nofun

/-- While no command is pending the operands are free: no snapshot ties them. -/
theorem inv_idleOperands {s : State} (h : s.Inv) (hp : s.pending = false) (args : Vector Word 8) (da : BitVec 14)
    (scrdim : BitVec 21) (pal : Vector PalEntry 17) :
    { s with args := args, da := da, scrdim := scrdim, pal := pal }.Inv where
  __ := h
  snapTaken hpend := by simp [hp] at hpend

theorem inv_resetRegisters {s : State} (h : s.Inv) : (resetRegisters s).Inv where
  __ := inv_resetWith h.cfgWf h.dmemWf h.dmemWithin h.pmemWf h.pmemWithin

theorem inv_writeRegIdle {s : State} (h : s.Inv) (hp : s.pending = false) (r : Reg) (v : Word) :
    (writeRegIdle s r v).Inv := by
  cases r with
  | ctrl =>
    simp only [writeRegIdle]
    split
    · exact inv_resetRegisters h
    · exact inv_unread h _ _ _
  | status => exact inv_sticky h ..
  | cmd => exact inv_acceptCommand h v
  | arg | da | scrdim | pal => exact inv_idleOperands h hp ..
  | id | res0 | res1 | errinfo | daaddr | scrbytes | scrinfo | dmemsz | reserved => exact h

theorem inv_writeRegBusy {s : State} (h : s.Inv) (r : Reg) (v : Word) : (writeRegBusy s r v).Inv := by
  cases r with
  | ctrl =>
    simp only [writeRegBusy]
    split
    · exact inv_unread (inv_sticky h ..) ..
    · exact inv_unread h ..
  | _ => exact inv_sticky h ..

theorem inv_writeReg {s : State} (h : s.Inv) (r : Reg) (v : Word) : (writeReg s r v).Inv := by
  unfold writeReg
  split
  · exact inv_writeRegBusy h r v
  next hb => exact inv_writeRegIdle h (by rw [← h.busyPending]; simpa using hb) r v

theorem inv_writeByte {s : State} {space : MemSpace} {a : Nat} (h : s.Inv) (hp : s.pending = false)
    (ha : a < spaceSize s space) (b : Byte) : (writeByte s space a b).Inv := by
  cases space with
  | dmem => exact
    { h with
      dmemWf := memWf_memWrite h.dmemWf a b
      dmemWithin := memWithin_memWrite h.dmemWithin ha
      snapTaken := by simp [hp] }
  | pmem => exact
    { h with
      pmemWf := memWf_memWrite h.pmemWf a b
      pmemWithin := memWithin_memWrite h.pmemWithin ha
      snapTaken := by simp [hp] }

/-! ### The moves and the step -/

/-- A hardware reset leaves canonical memories inside their spaces, whatever contents it takes
(70_reset_and_hazards.md R351). -/
theorem inv_hardReset {s : State} (h : s.Inv) (d p : List Host.Cell) : (hardReset s d p).Inv where
  __ := inv_resetWith h.cfgWf (memWf_memOfCells s.cfg.dmemSize.toNat d) (memWithin_memOfCells _ d)
    (memWf_memOfCells pmemSize p) (memWithin_memOfCells _ p)

theorem inv_runEvent {ev : Event} {s t : State} (h : s.Inv) (hmove : runEvent ev s = .next t) : t.Inv := by
  obtain ⟨-, hturn⟩ | ⟨offset, -, -, -, rfl⟩ | ⟨offset, v, -, -, -, rfl⟩ | ⟨space, a, -, -, rfl⟩ |
    ⟨space, a, b, -, hb, ha, rfl⟩ | ⟨d, p, -, rfl⟩ := runEvent_next hmove
  · exact inv_engineTurn h hturn
  · exact inv_unread h ..
  · exact inv_writeReg h (regAt offset) v
  · exact inv_unread h ..
  · exact inv_writeByte h (h.busyPending.symm.trans hb) ha b
  · exact inv_hardReset h d p

/-- Settles O50, by the kinds of move a step can make; the invariant does not read the schedule. -/
theorem everyStepKeepsTheInvariant : Obligations.EveryStepKeepsTheInvariant := by
  intro s t h hstep
  obtain ⟨-, hturn⟩ | ⟨ev, rest, -, hmove⟩ := step_next hstep
  · exact inv_engineTurn h hturn
  · exact inv_runEvent (inv_unread h s.ie rest s.rdata) hmove

/-- Settles O51: the empty memories of State.reset are canonical and inside their spaces. -/
theorem resetSatisfiesTheInvariant : Obligations.ResetSatisfiesTheInvariant :=
  ⟨inv_resetWith (by decide) rfl rfl rfl rfl, fun _ _ _ hcfg hd hdw hp hpw => inv_resetWith hcfg hd hdw hp hpw⟩

end Sys2Proof.Proofs

/-! STATUS as a word (10_state.md R24, R45): its bits, what a host write to it clears (60_exceptions.md R318), and what
a step does to it (R26 to R28, R30). -/

namespace Sys2Proof.Proofs

open Sys2Proof Sys2Proof.Machine Sys2Proof.Laws Sys2Proof.Claims

/-! ### The bits of the word -/

/-- A one-bit field holds its bit at its position alone. -/
theorem getLsbD_bitField (b : Bool) (pos i : Nat) :
    (bitField b pos).getLsbD i = (decide (i < 32) && decide (i = pos) && b) := by
  rw [bitField, BitVec.getLsbD_shiftLeft, BitVec.getLsbD_setWidth, BitVec.getLsbD_ofBool]
  grind

/-- A field at a bit position holds its bits from that position on. -/
theorem getLsbD_field {w : Nat} (x : BitVec w) (pos i : Nat) :
    (x.setWidth 32 <<< pos).getLsbD i = (decide (i < 32) && decide (pos ≤ i) && x.getLsbD (i - pos)) := by
  rw [BitVec.getLsbD_shiftLeft, BitVec.getLsbD_setWidth]
  grind

/-- Every bit of STATUS: the field that holds it. -/
theorem getLsbD_statusWord (st : Status) {i : Nat} (hi : i < 32) :
    (statusWord st).getLsbD i =
      (decide (i = 0) && st.busy || decide (i = 1) && st.done || decide (i = 2) && st.err ||
        decide (i = 3) && st.ovr || decide (8 ≤ i) && st.errcode.getLsbD (i - 8) ||
        decide (i = 16) && st.wClamp || decide (i = 17) && st.wDim || decide (i = 18) && st.wPages ||
        decide (20 ≤ i) && st.pageMask.getLsbD (i - 20) || decide (24 ≤ i) && st.memKind.getLsbD (i - 24)) := by
  simp only [statusWord, BitVec.getLsbD_or, getLsbD_bitField, getLsbD_field, hi, decide_true, Bool.true_and]

/-- Settles O42, bit by bit. -/
theorem statusWordHasItsFields : Obligations.StatusWordHasItsFields := by
  intro st
  refine ⟨?_, ?_, ?_, ?_, ?_, ?_, ?_, ?_, ?_, ?_, ?_, ?_, ?_⟩
  case refine_5 | refine_6 | refine_11 | refine_12 | refine_13 =>
    ext i hi
    rw [BitVec.getElem_extractLsb', getLsbD_statusWord st (by omega)]
    interval_cases i <;> simp
  all_goals
    rw [getLsbD_statusWord st (by decide)]
    simp

/-! ### A host write to STATUS -/

/-- The bits of STATUS a host write of 1 clears (10_state.md R24). -/
def stickyBits : List Nat := [1, 2, 3, 16, 17, 18]

theorem lt_of_mem_stickyBits {n : Nat} (hn : n ∈ stickyBits) : n < 32 := by
  simp only [stickyBits, List.mem_cons, List.not_mem_nil, or_false] at hn
  omega

theorem getLsbD_stickyMask {i : Nat} (hi : i < 32) : (0x0007000E : Word).getLsbD i = decide (i ∈ stickyBits) := by
  interval_cases i <;> decide

/-- A bit falls exactly when it is sticky and written 1. -/
theorem getLsbD_statusClear (st : Status) (v : Word) {i : Nat} (hi : i < 32) :
    (statusWord (statusClear st v)).getLsbD i =
      ((statusWord st).getLsbD i && !(decide (i ∈ stickyBits) && v.getLsbD i)) := by
  rw [getLsbD_statusWord _ hi, getLsbD_statusWord _ hi]
  interval_cases i <;> simp [statusClear, stickyBits]

theorem statusWord_statusClear (st : Status) (v : Word) :
    statusWord (statusClear st v) = statusWord st &&& ~~~(v &&& 0x0007000E) := by
  apply BitVec.eq_of_getLsbD_eq
  intro i hi
  rw [getLsbD_statusClear st v hi, BitVec.getLsbD_and, BitVec.getLsbD_not, BitVec.getLsbD_and, getLsbD_stickyMask hi]
  simp [hi, Bool.and_comm]

theorem writeReg_status_eq (s : State) (v : Word) :
    writeReg s .status v = { s with status := statusClear s.status v } := by
  unfold writeReg
  split <;> rfl

/-- Settles O38: busy or idle, the write clears the sticky bits written 1 and nothing else. -/
theorem statusWriteClearsWrittenOnes : Obligations.StatusWriteClearsWrittenOnes := by
  intro s v rest h
  refine ⟨statusClear s.status v, ?_, statusWord_statusClear s.status v⟩
  rw [step_regWrite h rfl (by decide)]
  exact congrArg _ (writeReg_status_eq { s with schedule := rest } v)

/-! ### The sticky bits under each change of STATUS -/

/-- Every sticky bit of one status is in another. -/
structure StickyKept (st st' : Status) : Prop where
  done : st.done = true → st'.done = true
  err : st.err = true → st'.err = true
  ovr : st.ovr = true → st'.ovr = true
  wClamp : st.wClamp = true → st'.wClamp = true
  wDim : st.wDim = true → st'.wDim = true
  wPages : st.wPages = true → st'.wPages = true

theorem StickyKept.bit {st st' : Status} (h : StickyKept st st') {n : Nat} (hn : n ∈ stickyBits)
    (hbit : (statusWord st).getLsbD n = true) : (statusWord st').getLsbD n = true := by
  rw [getLsbD_statusWord _ (lt_of_mem_stickyBits hn)] at hbit ⊢
  simp only [stickyBits, List.mem_cons, List.not_mem_nil, or_false] at hn
  rcases hn with rfl | rfl | rfl | rfl | rfl | rfl
  · simpa using h.done (by simpa using hbit)
  · simpa using h.err (by simpa using hbit)
  · simpa using h.ovr (by simpa using hbit)
  · simpa using h.wClamp (by simpa using hbit)
  · simpa using h.wDim (by simpa using hbit)
  · simpa using h.wPages (by simpa using hbit)

theorem stickyKept_refl (st : Status) : StickyKept st st := ⟨id, id, id, id, id, id⟩

theorem stickyKept_accept (st : Status) : StickyKept st { st with busy := true } := ⟨id, id, id, id, id, id⟩

theorem stickyKept_refused (st : Status) : StickyKept st (statusRefused st) := ⟨id, id, fun _ => rfl, id, id, id⟩

theorem stickyKept_error (st : Status) (code : Byte) : StickyKept st (statusError st code) :=
  ⟨fun _ => rfl, fun _ => rfl, id, id, id, id⟩

theorem stickyKept_success (st : Status) (w : Warnings) (m : Option (BitVec 4 × BitVec 2)) :
    StickyKept st (statusSuccess st w m) := by
  constructor <;> simp +contextual [statusSuccess]

/-- A completion keeps every sticky bit (60_exceptions.md R316). -/
theorem stickyKept_completeCommand (s : State) (o : CmdOutcome) : StickyKept s.status (completeCommand s o).status := by
  cases o with
  | raise e => exact stickyKept_error s.status (errorCode e)
  | commit fx => exact stickyKept_success s.status fx.warnings fx.memblk

theorem completeCommand_ovr (s : State) (o : CmdOutcome) : (completeCommand s o).status.ovr = s.status.ovr := by
  cases o <;> rfl

/-! ### What a step does to STATUS -/

/-- STATUS after a host write to a register: the W1C write, the soft reset taken, the accept, or OVR in the pending
window (70_reset_and_hazards.md R352, R356). -/
def statusAfterWrite (st : Status) (r : Reg) (v : Word) : Status :=
  match r with
  | .status => statusClear st v
  | .ctrl => if v.getLsbD 1 then (if st.busy then statusRefused st else Status.reset) else st
  | .cmd => if st.busy then statusRefused st else { st with busy := true }
  | _ => if st.busy then statusRefused st else st

theorem status_writeReg (s : State) (r : Reg) (v : Word) :
    (writeReg s r v).status = statusAfterWrite s.status r v := by
  unfold writeReg
  cases hb : s.status.busy with
  | false =>
    cases r with
    | ctrl =>
      simp only [writeRegIdle, statusAfterWrite, hb]
      cases v.getLsbD 1 <;> rfl
    | _ => simp [writeRegIdle, statusAfterWrite, hb]
  | true =>
    cases r with
    | ctrl => simp [writeRegBusy, statusAfterWrite, hb]
    | _ => simp [writeRegBusy, statusAfterWrite, hb]

theorem status_writeByte (s : State) (space : MemSpace) (a : Nat) (b : Byte) :
    (writeByte s space a b).status = s.status := by
  cases space <;> rfl

/-- A step changes STATUS by a host register write, by a hardware reset or by a completion, or not at all. -/
theorem step_status {s t : State} (h : step s = .next t) :
    (∃ off v rest, s.schedule = .regWrite off 4 v :: rest ∧ t.status = statusAfterWrite s.status (regAt off) v) ∨
      (∃ d p rest, s.schedule = .hardReset d p :: rest ∧ t.status = Status.reset) ∨
      ((∀ off v rest, s.schedule ≠ .regWrite off 4 v :: rest) ∧
        (t.status = s.status ∨ ∃ u o, u.status = s.status ∧ t = completeCommand u o)) := by
  obtain ⟨hs, hturn⟩ | ⟨ev, rest, hs, hmove⟩ := step_next h
  · refine .inr (.inr ⟨by simp [hs], ?_⟩)
    obtain ⟨o, rfl⟩ | rfl := engineTurn_completes_or_keeps hturn
    · exact .inr ⟨s, o, rfl, rfl⟩
    · exact .inl rfl
  · obtain ⟨rfl, hturn⟩ | ⟨_, rfl, -, -, rfl⟩ | ⟨off, v, rfl, -, -, rfl⟩ | ⟨_, _, rfl, -, rfl⟩ |
      ⟨space, a, b, rfl, -, -, rfl⟩ | ⟨d, p, rfl, rfl⟩ := runEvent_next hmove
    · refine .inr (.inr ⟨by simp [hs], ?_⟩)
      obtain ⟨o, rfl⟩ | rfl := engineTurn_completes_or_keeps hturn
      · exact .inr ⟨{ s with schedule := rest }, o, rfl, rfl⟩
      · exact .inl rfl
    · exact .inr (.inr ⟨by simp [hs], .inl rfl⟩)
    · exact .inl ⟨off, v, rest, hs, status_writeReg _ _ v⟩
    · exact .inr (.inr ⟨by simp [hs], .inl rfl⟩)
    · exact .inr (.inr ⟨by simp [hs], .inl (status_writeByte _ space a b)⟩)
    · exact .inr (.inl ⟨d, p, rest, hs, rfl⟩)

theorem regAt_eq_status {off : Nat} : regAt off = .status ↔ off = 0x08 := by
  constructor
  · intro h
    by_contra h8
    by_cases h4 : off = 0x04
    · subst h4
      cases h
    · exact (regAt_ne_ctrl_status h4 h8).2 h
  · rintro rfl
    rfl

theorem regAt_eq_ctrl {off : Nat} : regAt off = .ctrl ↔ off = 0x04 := by
  constructor
  · intro h
    by_contra h4
    by_cases h8 : off = 0x08
    · subst h8
      cases h
    · exact (regAt_ne_ctrl_status h4 h8).1 h
  · rintro rfl
    rfl

/-- A register write that is no STATUS write and no soft reset taken keeps every sticky bit. -/
theorem stickyKept_statusAfterWrite {st : Status} {r : Reg} {v : Word} (hr : r ≠ .status)
    (hsrst : ¬ (r = .ctrl ∧ v.getLsbD 1 = true ∧ st.busy = false)) : StickyKept st (statusAfterWrite st r v) := by
  unfold statusAfterWrite
  split
  · exact absurd rfl hr
  · split
    next hv =>
      split
      · exact stickyKept_refused st
      next hb => exact absurd ⟨rfl, hv, by simpa using hb⟩ hsrst
    · exact stickyKept_refl st
  · split
    · exact stickyKept_refused st
    · exact stickyKept_accept st
  · split
    · exact stickyKept_refused st
    · exact stickyKept_refl st

/-- Settles O39: only a STATUS write, a soft reset taken and a hardware reset do not keep the sticky bits, and a STATUS
write clears those written 1. -/
theorem stickyBitsFallOnlyByHostOrReset : Obligations.StickyBitsFallOnlyByHostOrReset := by
  intro s t h n hn hset hclear
  have hfell : ¬ StickyKept s.status t.status := fun hk => by simp [hk.bit hn hset] at hclear
  obtain ⟨off, v, rest, hs, ht⟩ | ⟨d, p, rest, hs, -⟩ | ⟨-, ht | ⟨u, o, hu, rfl⟩⟩ := step_status h
  · refine ⟨_, rest, hs, .inr ?_⟩
    by_cases hstatus : regAt off = .status
    · obtain rfl := regAt_eq_status.1 hstatus
      refine .inl ⟨v, rfl, ?_⟩
      rw [ht, hstatus, statusAfterWrite, getLsbD_statusClear _ _ (lt_of_mem_stickyBits hn), hset] at hclear
      simpa [show n ∈ stickyBits from hn] using hclear
    · by_cases hsrst : regAt off = .ctrl ∧ v.getLsbD 1 = true ∧ s.status.busy = false
      · obtain ⟨hctrl, hv, hb⟩ := hsrst
        obtain rfl := regAt_eq_ctrl.1 hctrl
        exact .inr ⟨v, rfl, hv, hb⟩
      · exact absurd (ht ▸ stickyKept_statusAfterWrite hstatus hsrst) hfell
  · exact ⟨_, rest, hs, .inl ⟨d, p, rfl⟩⟩
  · exact absurd (ht ▸ stickyKept_refl s.status) hfell
  · exact absurd (hu ▸ stickyKept_completeCommand u o) hfell

/-- OVR rises exactly on a write refused in the pending window (10_state.md R28). -/
theorem ovr_statusAfterWrite {st : Status} {r : Reg} {v : Word} (h : st.ovr = false) :
    (statusAfterWrite st r v).ovr = true ↔
      st.busy = true ∧ r ≠ .status ∧ (r = .ctrl → v.getLsbD 1 = true) := by
  cases r with
  | status => simp [statusAfterWrite, statusClear, h]
  | ctrl =>
    simp only [statusAfterWrite]
    cases v.getLsbD 1 <;> cases hb : st.busy <;> simp [statusRefused, Status.reset, h]
  | _ => cases hb : st.busy <;> simp [statusAfterWrite, statusRefused, h, hb]

/-- Settles O40: of the moves that change STATUS only a refused register write sets OVR; its fall is the fall of sticky
bit 3. -/
theorem overrunRecordsRefusedWrites : Obligations.OverrunRecordsRefusedWrites := by
  intro s t h
  constructor
  · intro hovr
    obtain ⟨off, v, rest, hs, ht⟩ | ⟨d, p, rest, hs, ht⟩ | ⟨hno, hkept⟩ := step_status h
    · rw [ht, ovr_statusAfterWrite hovr, Ne, regAt_eq_status, regAt_eq_ctrl]
      simp [hs]
    · simp [ht, hs, Status.reset]
    · have hovr' : t.status.ovr = false := by
        obtain ht | ⟨u, o, hu, rfl⟩ := hkept
        · rw [ht, hovr]
        · rw [completeCommand_ovr, hu, hovr]
      simp only [hovr', Bool.false_eq_true, false_iff]
      rintro ⟨-, off, v, rest, hs, -⟩
      exact hno off v rest hs
  · intro hset hclear
    refine stickyBitsFallOnlyByHostOrReset s t h 3 (by decide) ?_ ?_
    · rw [getLsbD_statusWord _ (by decide)]
      simp [hset]
    · rw [getLsbD_statusWord _ (by decide)]
      simp [hclear]

end Sys2Proof.Proofs

/-! The register map (10_state.md R21): offsets and registers name each other, what each register reads, what a reset
(70_reset_and_hazards.md R350) and an idle host write leave it at. -/

namespace Sys2Proof.Proofs

open Sys2Proof Sys2Proof.Machine Sys2Proof.Laws Sys2Proof.Claims

/-! ### Offsets and registers -/

theorem regAt_regOffset (r : Reg) : regAt (regOffset r) = r := by
  cases r with
  | arg n => revert n; decide
  | errinfo n => revert n; decide
  | pal p => revert p; decide
  | _ => rfl

/-- What holds at the 64 aligned offsets of REG holds at every offset a register access reaches
(20_memory.md R61, R68). -/
theorem forall_aligned {P : Nat → Prop} (h : ∀ k : Fin 64, P (4 * k.val)) {off : Nat} (ha : off % 4 = 0)
    (hl : off < 0x100) : P off := by
  have hoff : 4 * (off / 4) = off := by omega
  exact hoff ▸ h ⟨off / 4, by omega⟩

/-- An assigned register has one offset. -/
theorem eq_regOffset_of_regAt {off : Nat} {r : Reg} (ha : off % 4 = 0) (hl : off < 0x100) (h : regAt off = r)
    (hr : r ≠ .reserved) : off = regOffset r := by
  subst h
  exact forall_aligned (P := fun off => regAt off ≠ .reserved → off = regOffset (regAt off)) (by decide) ha hl hr

theorem regAt_reserved {off : Nat} (ha : off % 4 = 0)
    (h : (0x60 ≤ off ∧ off ≤ 0x7C) ∨ (0xC4 ≤ off ∧ off ≤ 0xFC)) : regAt off = .reserved :=
  forall_aligned (P := fun off => (0x60 ≤ off ∧ off ≤ 0x7C) ∨ (0xC4 ≤ off ∧ off ≤ 0xFC) → regAt off = .reserved)
    (by decide) ha (by omega) h

/-! ### What each register reads -/

theorem readReg_ctrl (s : State) : readReg s .ctrl = if s.ie then 1 else 0 := by
  cases h : s.ie <;> simp [readReg, bitField, h]

theorem toNat_palWord (e : PalEntry) : (palWord e).toNat = 128 * e.valid.toNat + e.ink.toNat := by
  obtain ⟨valid, ink⟩ := e
  have := ink.isLt
  cases valid <;> revert ink <;> decide

/-- Settles O60: each offset is that of its register, which reads its own field. -/
theorem storedRegistersReadTheirFields : Obligations.StoredRegistersReadTheirFields := by
  intro s
  refine ⟨readReg_ctrl s, rfl, rfl, fun n => ?_, rfl, rfl, fun n => ?_, ?_, ?_, fun p => ?_⟩
  · exact congrArg (readReg s) (regAt_regOffset (.arg n))
  · exact congrArg (readReg s) (regAt_regOffset (.errinfo n))
  · exact BitVec.toNat_setWidth_of_le (by decide)
  · exact BitVec.toNat_setWidth_of_le (by decide)
  · have h := congrArg (readReg s) (regAt_regOffset (.pal p))
    rw [regOffset] at h
    rw [h, readReg, toNat_palWord]

theorem scrHdisp_eq (v : BitVec 21) : scrHdisp v = v.toNat % 256 := by
  simp [scrHdisp]

theorem scrVdisp_eq (v : BitVec 21) : scrVdisp v = v.toNat / 256 % 256 := by
  simp [scrVdisp, Nat.shiftRight_eq_div_pow]

theorem scrMra_eq (v : BitVec 21) : scrMra v = v.toNat / 65536 := by
  have := v.isLt
  simp [scrMra, Nat.shiftRight_eq_div_pow]
  omega

theorem daAddress_eq (d : BitVec 14) : daAddress d = d.toNat / 0x1000 * 0x4000 + d.toNat % 1024 * 2 := by
  have := d.isLt
  simp [daAddress, daPage, daOffset, Nat.shiftRight_eq_div_pow]
  omega

/-- SCRBYTES at its largest operands: 255 columns, 255 rows, 32 lines (10_state.md R40). -/
theorem scrBytes_le (v : BitVec 21) : scrBytes v ≤ 4161600 := by
  have hv := v.isLt
  have hh : scrHdisp v ≤ 255 := by rw [scrHdisp_eq]; omega
  have hd : scrVdisp v ≤ 255 := by rw [scrVdisp_eq]; omega
  have hm : scrMra v + 1 ≤ 32 := by rw [scrMra_eq]; omega
  calc 2 * scrHdisp v * scrVdisp v * (scrMra v + 1) ≤ 2 * 255 * 255 * 32 := by gcongr
    _ = 4161600 := rfl

/-- Settles O44: the fields of DA and SCRDIM by the numbers, and SCRBYTES small enough for its register. -/
theorem derivedRegistersReadTheirFormulas : Obligations.DerivedRegistersReadTheirFormulas := by
  rintro s hd vd mra rfl rfl rfl
  have hle := scrBytes_le s.scrdim
  have hbytes : scrBytes s.scrdim =
      2 * (s.scrdim.toNat % 256) * (s.scrdim.toNat / 256 % 256) * (s.scrdim.toNat / 65536 + 1) := by
    rw [scrBytes, scrHdisp_eq, scrVdisp_eq, scrMra_eq]
  rw [← hbytes]
  refine ⟨rfl, ?_, ?_, hle, ?_, rfl⟩
  · show (BitVec.ofNat 32 (daAddress s.da)).toNat = _
    have := s.da.isLt
    rw [← daAddress_eq, BitVec.toNat_ofNat, Nat.mod_eq_of_lt (by rw [daAddress_eq]; omega)]
  · exact Nat.mod_eq_of_lt (by omega)
  · show bitField (scrUseTwoBanks s.scrdim) 0 = _
    by_cases h : scrBytes s.scrdim > 0x4000 <;> simp [scrUseTwoBanks, bitField, h]

/-! ### What a reset leaves -/

/-- A register's reset value (10_state.md R21). -/
def regResetValue (cfg : Config) : Reg → Word
  | .id => 0x43504358
  | .dmemsz => cfg.dmemSize
  | _ => 0

theorem readReg_resetWith (cfg : Config) (d p : Memory) (r : Reg) :
    readReg (State.resetWith cfg d p) r = regResetValue cfg r := by
  cases r with
  | status => exact (by decide : statusWord Status.reset = 0)
  | daaddr => exact (by decide : BitVec.ofNat 32 (daAddress 0) = 0)
  | scrbytes => exact (by decide : BitVec.ofNat 32 (scrBytes 0) = 0)
  | scrinfo => exact (by decide : bitField (scrUseTwoBanks 0) 0 = 0)
  | arg | errinfo => simp [readReg, regResetValue]
  | pal => simp [readReg, regResetValue, PalEntry.unset, palWord, bitField]
  | _ => rfl

theorem readReg_hardReset (s : State) (d p : List Host.Cell) (r : Reg) :
    readReg (hardReset s d p) r = regResetValue s.cfg r := by
  rw [← readReg_resetWith s.cfg (hardReset s d p).dmem (hardReset s d p).pmem r]
  cases r <;> rfl

/-- ID and DMEMSZ stand at their own offsets alone. -/
theorem resetValue_eq {off : Nat} (cfg : Config) (ha : off % 4 = 0) (hl : off < 0x100) :
    resetValue cfg off = regResetValue cfg (regAt off) := by
  unfold resetValue
  split
  next h0 => rw [h0]; rfl
  next h0 =>
    split
    next hsz => rw [hsz]; rfl
    next hsz =>
      unfold regResetValue
      split
      next hid => exact absurd (eq_regOffset_of_regAt ha hl hid nofun) h0
      next hdm => exact absurd (eq_regOffset_of_regAt ha hl hdm nofun) hsz
      next => rfl

/-- Settles O34: the reset move leaves every register at its reset value. -/
theorem hardwareResetClearsEveryRegister : Obligations.HardwareResetClearsEveryRegister := by
  intro s d p rest h
  refine ⟨hardReset { s with schedule := rest } d p, step_cons h, fun off ha hl => ?_, rfl, rfl, rfl, rfl, rfl⟩
  rw [readReg_hardReset, resetValue_eq s.cfg ha hl]

/-- Settles O35, for every parameter record and memory content; State.reset has the parameters of log entry 3. -/
theorem resetStateReadsTheResetValues : Obligations.ResetStateReadsTheResetValues := by
  refine ⟨fun cfg d p => ⟨fun off ha hl => ?_, rfl, rfl, fun _ => rfl, fun _ => rfl⟩, defaultConfig, [], [], rfl⟩
  rw [readReg_resetWith, resetValue_eq cfg ha hl]

/-! ### Reserved bits and ignored writes -/

/-- The registers an idle host write does not change (10_state.md R45). -/
def ignoresWrites : Reg → Bool
  | .ctrl | .status | .cmd | .arg _ | .da | .scrdim | .pal _ => false
  | _ => true

theorem writeRegIdle_ignored {r : Reg} (h : ignoresWrites r = true) (s : State) (v : Word) :
    writeRegIdle s r v = s := by
  cases r with
  | ctrl | status | cmd | arg | da | scrdim | pal => cases h
  | _ => rfl

theorem ignoresWrites_of_offset {off : Nat} (ha : off % 4 = 0)
    (h : ((0x60 ≤ off ∧ off ≤ 0x7C) ∨ (0xC4 ≤ off ∧ off ≤ 0xFC)) ∨
      off ∈ [0x00, 0x30, 0x34, 0x38, 0x3C, 0x40, 0x44, 0x4C, 0x54, 0x58, 0x5C]) : ignoresWrites (regAt off) = true := by
  obtain hres | hro := h
  · rw [regAt_reserved ha hres]
    rfl
  · clear ha
    revert off
    decide

/-- A host register write outside the pending window (70_reset_and_hazards.md R355), as one step. -/
theorem step_regWrite_idle {s : State} {off : Nat} {v : Word} {rest : List Event} (hb : s.status.busy = false)
    (hs : s.schedule = .regWrite off 4 v :: rest) (ha : off % 4 = 0) (hl : off < 0x100) :
    step s = .next (writeRegIdle { s with schedule := rest } (regAt off) v) := by
  rw [step_regWrite hs ha hl]
  simp [writeReg, hb]

theorem statusWord_reserved (st : Status) : statusWord st &&& 0xFC0800F0 = 0 := by
  apply BitVec.eq_of_getLsbD_eq
  intro i hi
  rw [BitVec.getLsbD_and, getLsbD_statusWord st hi]
  interval_cases i <;> simp

theorem bitField_zero_reserved (b : Bool) : bitField b 0 &&& 0xFFFFFFFE = 0 := by
  cases b <;> decide

theorem palWord_reserved (e : PalEntry) : palWord e &&& 0xFFFFFF60 = 0 := by
  obtain ⟨valid, ink⟩ := e
  cases valid <;> revert ink <;> decide

/-- A field of w bits, zero-extended, has no bit where a mask has none of its own. -/
theorem setWidth_and_high {w : Nat} (x : BitVec w) {m : Word} (hm : ∀ i < w, m.getLsbD i = false) :
    x.setWidth 32 &&& m = 0 := by
  apply BitVec.eq_of_getLsbD_eq
  intro i hi
  by_cases hw : i < w
  · simp [hm i hw]
  · simp [BitVec.getLsbD_of_ge x i (by omega)]

/-- Settles O43: reserved offsets hold the reserved register, and every write to it or to a read-only one is ignored. -/
theorem reservedAndReadOnlyRegisters : Obligations.ReservedAndReadOnlyRegisters := by
  refine ⟨fun s off ha h => ?_, fun s => ⟨?_, ?_, ?_, ?_, ?_, fun p hp => ?_⟩, fun s v off rest hb ha h hs => ?_⟩
  · rw [regAt_reserved ha h, readReg]
  · exact bitField_zero_reserved s.ie
  · exact statusWord_reserved s.status
  · exact setWidth_and_high s.da (by decide)
  · exact setWidth_and_high s.scrdim (by decide)
  · exact bitField_zero_reserved (scrUseTwoBanks s.scrdim)
  · have hpal := regAt_regOffset (.pal ⟨p, by omega⟩)
    rw [regOffset] at hpal
    rw [hpal]
    exact palWord_reserved _
  · have hlt : off < 0x100 := by
      obtain h | h := h
      · omega
      · clear ha hs
        revert off
        decide
    rw [step_regWrite_idle hb hs ha hlt, writeRegIdle_ignored (ignoresWrites_of_offset ha h)]

/-! ### Idle writes to the read-write registers -/

/-- The bits a write to a read-write register stores (10_state.md R23, R33, R36, R39, R43). -/
def storedBits : Reg → Word
  | .ctrl => 0x00000001
  | .arg _ => 0xFFFFFFFF
  | .da => 0x00003FFF
  | .scrdim => 0x001FFFFF
  | .pal _ => 0x0000009F
  | _ => 0

/-- A write that stores bits of its value in its register and does nothing else. -/
inductive StoresBits (v : Word) : Reg → Prop
  | ctrl (h : v.getLsbD 1 = false) : StoresBits v .ctrl
  | arg (n : Fin 8) : StoresBits v (.arg n)
  | da : StoresBits v .da
  | scrdim : StoresBits v .scrdim
  | pal (p : Fin 17) : StoresBits v (.pal p)

theorem setWidth_extractLsb'_low (v : Word) (w : Nat) (m : Word)
    (hm : ∀ i < 32, m.getLsbD i = decide (i < w)) : (v.extractLsb' 0 w).setWidth 32 = v &&& m := by
  apply BitVec.eq_of_getLsbD_eq
  intro i hi
  simp only [BitVec.getLsbD_setWidth, BitVec.getLsbD_extractLsb', BitVec.getLsbD_and, hm i hi, hi, decide_true,
    Bool.true_and, Nat.zero_add]
  exact Bool.and_comm _ _

theorem bitField_getLsbD_zero (v : Word) : bitField (v.getLsbD 0) 0 = v &&& 1 := by
  apply BitVec.eq_of_getLsbD_eq
  intro i hi
  rw [getLsbD_bitField, BitVec.getLsbD_and]
  interval_cases i <;> simp

theorem palWord_palOfWord (v : Word) : palWord (palOfWord v) = v &&& 0x9F := by
  apply BitVec.eq_of_getLsbD_eq
  intro i hi
  rw [palWord, BitVec.getLsbD_or, getLsbD_bitField, BitVec.getLsbD_and]
  interval_cases i <;> simp [palOfWord]

theorem writeRegIdle_ctrl {v : Word} (h : v.getLsbD 1 = false) (s : State) :
    writeRegIdle s .ctrl v = { s with ie := v.getLsbD 0 } := by
  rw [writeRegIdle, h]
  rfl

theorem readReg_writeRegIdle_same {v : Word} {r : Reg} (h : StoresBits v r) (s : State) :
    readReg (writeRegIdle s r v) r = v &&& storedBits r := by
  cases h with
  | ctrl hv =>
    rw [writeRegIdle_ctrl hv]
    exact bitField_getLsbD_zero v
  | arg n =>
    simp only [writeRegIdle, readReg, storedBits, Fin.getElem_fin, Vector.getElem_set_self]
    exact BitVec.and_allOnes.symm
  | da => exact setWidth_extractLsb'_low v 14 _ (by decide)
  | scrdim => exact setWidth_extractLsb'_low v 21 _ (by decide)
  | pal p =>
    simp only [writeRegIdle, readReg, storedBits, Fin.getElem_fin, Vector.getElem_set_self]
    exact palWord_palOfWord v

/-- A register whose value is computed from another (10_state.md R38, R40, R41). -/
inductive DerivedFrom : Reg → Reg → Prop
  | daaddr : DerivedFrom .da .daaddr
  | scrbytes : DerivedFrom .scrdim .scrbytes
  | scrinfo : DerivedFrom .scrdim .scrinfo

theorem readReg_writeRegIdle_other {v : Word} {r r' : Reg} (h : StoresBits v r) (hne : r' ≠ r)
    (hd : ¬ DerivedFrom r r') (s : State) : readReg (writeRegIdle s r v) r' = readReg s r' := by
  cases h with
  | ctrl hv =>
    rw [writeRegIdle_ctrl hv]
    cases r' with
    | ctrl => exact absurd rfl hne
    | _ => rfl
  | arg n =>
    cases r' with
    | arg m =>
      have hnm : n.val ≠ m.val := fun h => hne (congrArg Reg.arg (Fin.ext h.symm))
      simp [writeRegIdle, readReg, Vector.getElem_set_ne, hnm]
    | _ => rfl
  | da =>
    cases r' with
    | da => exact absurd rfl hne
    | daaddr => exact absurd .daaddr hd
    | _ => rfl
  | scrdim =>
    cases r' with
    | scrdim => exact absurd rfl hne
    | scrbytes => exact absurd .scrbytes hd
    | scrinfo => exact absurd .scrinfo hd
    | _ => rfl
  | pal p =>
    cases r' with
    | pal q =>
      have hpq : p.val ≠ q.val := fun h => hne (congrArg Reg.pal (Fin.ext h.symm))
      simp [writeRegIdle, readReg, Vector.getElem_set_ne, hpq]
    | _ => rfl

theorem writeRegIdle_keeps_memory {v : Word} {r : Reg} (h : StoresBits v r) (s : State) :
    (writeRegIdle s r v).dmem = s.dmem ∧ (writeRegIdle s r v).pmem = s.pmem ∧
      (writeRegIdle s r v).pending = s.pending ∧ (writeRegIdle s r v).snap = s.snap := by
  cases h with
  | ctrl hv => simp [writeRegIdle_ctrl hv]
  | _ => exact ⟨rfl, rfl, rfl, rfl⟩

/-- The offsets of the read-write registers and the bits each stores. -/
theorem storesBits_of_offset {v mask : Word} {off : Nat}
    (h : (off = 0x04 ∧ v.getLsbD 1 = false ∧ mask = 0x00000001) ∨
      (off % 4 = 0 ∧ 0x10 ≤ off ∧ off ≤ 0x2C ∧ mask = 0xFFFFFFFF) ∨ (off = 0x48 ∧ mask = 0x00003FFF) ∨
      (off = 0x50 ∧ mask = 0x001FFFFF) ∨ (off % 4 = 0 ∧ 0x80 ≤ off ∧ off ≤ 0xC0 ∧ mask = 0x0000009F)) :
    ∃ r, StoresBits v r ∧ off = regOffset r ∧ mask = storedBits r := by
  obtain ⟨ho, hv, hm⟩ | ⟨ha, hlo, hhi, hm⟩ | ⟨ho, hm⟩ | ⟨ho, hm⟩ | ⟨ha, hlo, hhi, hm⟩ := h
  · exact ⟨.ctrl, .ctrl hv, ho, hm⟩
  · exact ⟨.arg ⟨(off - 0x10) / 4, by omega⟩, .arg _, by simp only [regOffset]; omega, hm⟩
  · exact ⟨.da, .da, ho, hm⟩
  · exact ⟨.scrdim, .scrdim, ho, hm⟩
  · exact ⟨.pal ⟨(off - 0x80) / 4, by omega⟩, .pal _, by simp only [regOffset]; omega, hm⟩

theorem regOffset_aligned (r : Reg) : regOffset r % 4 = 0 ∧ regOffset r < 0x100 := by
  cases r with
  | arg | errinfo | pal => simp only [regOffset]; omega
  | _ => decide

/-- Settles O45: the register at the offset stores its bits, and another offset reads another register. -/
theorem registerWritesReadBack : Obligations.RegisterWritesReadBack := by
  intro s v off rest mask hb hs h
  obtain ⟨r, hstores, rfl, rfl⟩ := storesBits_of_offset h
  obtain ⟨ha, hl⟩ := regOffset_aligned r
  obtain ⟨hdmem, hpmem, hpending, hsnap⟩ := writeRegIdle_keeps_memory hstores { s with schedule := rest }
  have hstep := step_regWrite_idle hb hs ha hl
  rw [regAt_regOffset] at hstep
  refine ⟨_, hstep, ?_, fun o hoa hol hne hda hscr => ?_, fun a => by rw [hdmem], fun a => by rw [hpmem],
    hpending, hsnap⟩
  · rw [regAt_regOffset]
    exact readReg_writeRegIdle_same hstores _
  · rw [readReg_writeRegIdle_other hstores ?_ ?_]
    · cases regAt o <;> rfl
    · intro h
      exact hne (eq_regOffset_of_regAt hoa hol h (by rintro rfl; cases hstores))
    · generalize hr' : regAt o = r'
      rintro (_ | _ | _)
      · exact hda ⟨rfl, eq_regOffset_of_regAt hoa hol hr' nofun⟩
      · exact hscr ⟨rfl, .inl (eq_regOffset_of_regAt hoa hol hr' nofun)⟩
      · exact hscr ⟨rfl, .inr (eq_regOffset_of_regAt hoa hol hr' nofun)⟩

end Sys2Proof.Proofs

/-! The host's accesses (20_memory.md R61 to R63, R68 to R71): which of them stop the step, and what each of the others
does, in and outside the pending window (70_reset_and_hazards.md R352, R356, R357). -/

namespace Sys2Proof.Proofs

open Sys2Proof Sys2Proof.Machine Sys2Proof.Laws

/-! ### When a move answers a next state -/

theorem regAccess_eq_next_iff {offset width : Nat} {k : StepOutcome} {t : State} :
    regAccess offset width k = .next t ↔ (width = 4 ∧ offset % 4 = 0 ∧ offset < 0x100) ∧ k = .next t := by
  constructor
  · intro h
    obtain ⟨hw, ho, hl, hk⟩ := regAccess_next h
    exact ⟨⟨hw, ho, hl⟩, hk⟩
  · rintro ⟨⟨rfl, ho, hl⟩, rfl⟩
    simp [regAccess, ho, Nat.not_le.2 hl]

theorem byteAccess_inside {s : State} {space : MemSpace} {a : Nat} (hb : s.status.busy = false)
    (ha : a < spaceSize s space) (k : StepOutcome) : byteAccess s space a k = k := by
  simp [byteAccess, hb, Nat.not_le.2 ha]

theorem byteAccess_eq_next_iff {s : State} {space : MemSpace} {a : Nat} {k : StepOutcome} {t : State} :
    byteAccess s space a k = .next t ↔ (s.status.busy = false ∧ a < spaceSize s space) ∧ k = .next t := by
  constructor
  · intro h
    obtain ⟨hb, ha, hk⟩ := byteAccess_next h
    exact ⟨⟨hb, ha⟩, hk⟩
  · rintro ⟨⟨hb, ha⟩, rfl⟩
    exact byteAccess_inside hb ha _

/-- No command stops the machine (30_encoding.md R105). -/
theorem engineTurn_never_stops (s : State) : ∃ t, engineTurn s = .next t := by
  obtain ⟨-, hturn⟩ | ⟨-, hturn⟩ := engineTurn_cases s
  · obtain ⟨i, -, hstep⟩ | ⟨e, -, hstep⟩ := engineStep_cases s
    · exact ⟨_, hturn.trans hstep⟩
    · exact ⟨_, hturn.trans hstep⟩
  · exact ⟨s, hturn⟩

theorem runEvent_answers_iff (ev : Event) (s : State) : (∃ t, runEvent ev s = .next t) ↔ eventAllowed s ev = true := by
  cases ev with
  | engine => simpa [runEvent, eventAllowed] using engineTurn_never_stops s
  | regRead | regWrite => simp [runEvent, eventAllowed, regAccess_eq_next_iff, and_assoc]
  | byteRead | byteWrite => simp [runEvent, eventAllowed, byteAccess_eq_next_iff]
  | hardReset => simp [runEvent, eventAllowed]

@[simp] theorem spaceSize_schedule (s : State) (rest : List Event) (space : MemSpace) :
    spaceSize { s with schedule := rest } space = spaceSize s space := by
  cases space <;> rfl

/-- What a move may do does not depend on the moves after it. -/
@[simp] theorem eventAllowed_schedule (s : State) (rest : List Event) (ev : Event) :
    eventAllowed { s with schedule := rest } ev = eventAllowed s ev := by
  cases ev <;> simp [eventAllowed]

/-- Settles O53, by the next move of the schedule; with none left the engine moves, which never stops. -/
theorem onlyDisallowedHostMovesStop : Obligations.OnlyDisallowedHostMovesStop := by
  intro s
  unfold stepSafe moveAllowed
  cases hs : s.schedule with
  | nil => simpa [step_empty hs] using engineTurn_never_stops s
  | cons ev rest => simp [step_cons hs, runEvent_answers_iff]

/-! ### Register accesses -/

/-- Settles O46: the form of an access is checked before anything else (20_memory.md R68). -/
theorem illFormedRegisterAccessIsRefused : Obligations.IllFormedRegisterAccessIsRefused := by
  intro s off width v rest hform hs
  obtain hs | hs := hs
  · exact (step_cons hs).trans (if_pos hform)
  · exact (step_cons hs).trans (if_pos hform)

/-- A host register write in the pending window (70_reset_and_hazards.md R356), as one step. -/
theorem step_regWrite_busy {s : State} {off : Nat} {v : Word} {rest : List Event} (hb : s.status.busy = true)
    (hs : s.schedule = .regWrite off 4 v :: rest) (ha : off % 4 = 0) (hl : off < 0x100) :
    step s = .next (writeRegBusy { s with schedule := rest } (regAt off) v) := by
  rw [step_regWrite hs ha hl]
  simp [writeReg, hb]

/-- In the pending window SRST only sets OVR (70_reset_and_hazards.md R352). -/
theorem writeRegBusy_ctrl (s : State) (v : Word) :
    writeRegBusy s .ctrl v =
      { s with ie := v.getLsbD 0, status := { s.status with ovr := s.status.ovr || v.getLsbD 1 } } := by
  simp only [writeRegBusy, statusRefused]
  cases v.getLsbD 1 <;> simp

theorem writeRegBusy_refused {r : Reg} (hctrl : r ≠ .ctrl) (hstatus : r ≠ .status) (s : State) (v : Word) :
    writeRegBusy s r v = { s with status := statusRefused s.status } := by
  cases r with
  | ctrl => exact absurd rfl hctrl
  | status => exact absurd rfl hstatus
  | _ => rfl

/-- No register shows the schedule. -/
theorem readReg_schedule (s : State) (rest : List Event) (r : Reg) :
    readReg { s with schedule := rest } r = readReg s r := by
  cases r <;> rfl

/-- Settles O33: a read latches the register; a write in the pending window is one of CTRL, of STATUS, or refused. -/
theorem pendingWindowRegisterAccesses : Obligations.PendingWindowRegisterAccesses := by
  intro s off v rest ha hl
  refine ⟨fun hs => ?_, fun hb hs => ?_⟩
  · rw [step_regRead hs ha hl, readReg_schedule]
  · have hstep := step_regWrite_busy hb hs ha hl
    refine ⟨?_, ?_, fun h4 h8 => ?_⟩
    · rintro rfl
      exact hstep.trans (congrArg _ (writeRegBusy_ctrl _ v))
    · rintro rfl
      exact hstep
    · obtain ⟨hctrl, hstatus⟩ := regAt_ne_ctrl_status h4 h8
      exact hstep.trans (congrArg _ (writeRegBusy_refused hctrl hstatus _ v))

/-! ### Byte accesses -/

theorem readByte_eq_ite (s : State) (space : MemSpace) (a : Nat) :
    readByte s space a = if space = .dmem then memRead s.dmem a else memRead s.pmem a := by
  cases space <;> rfl

theorem writeByte_only_memories (s : State) (space : MemSpace) (a : Nat) (b : Byte) :
    writeByte s space a b =
      { s with dmem := (writeByte s space a b).dmem, pmem := (writeByte s space a b).pmem } := by
  cases space <;> rfl

theorem memRead_writeByte_dmem {s : State} (h : memWf s.dmem = true) (space : MemSpace) (a : Nat) (b : Byte) (x : Nat) :
    memRead (writeByte s space a b).dmem x = if space = .dmem ∧ x = a then b else memRead s.dmem x := by
  cases space with
  | dmem => simp [memRead_memWrite h]
  | pmem => simp

theorem memRead_writeByte_pmem {s : State} (h : memWf s.pmem = true) (space : MemSpace) (a : Nat) (b : Byte) (x : Nat) :
    memRead (writeByte s space a b).pmem x = if space = .pmem ∧ x = a then b else memRead s.pmem x := by
  cases space with
  | dmem => simp
  | pmem => simp [memRead_memWrite h]

/-- Settles O48: the access passes its checks, and the memories are read and written by the laws of `memWrite`. -/
theorem hostByteAccesses : Obligations.HostByteAccesses := by
  intro s space a b rest hb ha hd hp
  have hinside : a < spaceSize { s with schedule := rest } space := by cases space <;> exact ha
  refine ⟨fun hs => ?_, fun hs => ?_⟩
  · have hstep : step s = .next (writeByte { s with schedule := rest } space a b) :=
      (step_cons hs).trans (byteAccess_inside hb hinside _)
    exact ⟨_, _, hstep.trans (congrArg _ (writeByte_only_memories ..)),
      memRead_writeByte_dmem (s := { s with schedule := rest }) hd space a b,
      memRead_writeByte_pmem (s := { s with schedule := rest }) hp space a b⟩
  · have hread := readByte_eq_ite { s with schedule := rest } space a
    exact (step_cons hs).trans <| (byteAccess_inside hb hinside _).trans <| by rw [hread]

end Sys2Proof.Proofs

/-! The command word (30_encoding.md R90, R97, R98): cutting a word into its fields and joining them again, the row an
opcode selects, and when a word is legal. -/

namespace Sys2Proof.Proofs

open Sys2Proof Sys2Proof.Machine Sys2Proof.Laws Sys2Proof.Claims

/-! ### The fields of a word -/

theorem extractLsb'_joinWord_opc (f : CommandFields) : (joinWord f).extractLsb' 0 8 = f.opc :=
  BitVec.extractLsb'_append_eq_right

/-- The bits above OPC are those of the other fields. -/
theorem extractLsb'_joinWord_above_opc (f : CommandFields) {start len : Nat} (h : 8 ≤ start) :
    (joinWord f).extractLsb' start len =
      (f.reserved ++ f.vdir ++ f.hdir ++ f.crop ++ f.tail ++ f.mode).extractLsb' (start - 8) len :=
  BitVec.extractLsb'_append_eq_of_le h

theorem splitWord_joinWord (f : CommandFields) : splitWord (joinWord f) = f := by
  simp [-Nat.reduceAdd, splitWord, extractLsb'_joinWord_opc, extractLsb'_joinWord_above_opc,
    BitVec.extractLsb'_append_eq_of_le, BitVec.extractLsb'_append_eq_right]

/-- Neighbouring fields join to one longer field, and all of them to the word. -/
theorem joinWord_splitWord (w : Word) : joinWord (splitWord w) = w := by
  simp only [splitWord, joinWord]
  repeat rw [BitVec.extractLsb'_append_extractLsb'_eq_extractLsb' (by rfl)]
  exact BitVec.extractLsb'_eq_self

theorem splitWord_inj {w v : Word} : splitWord w = splitWord v ↔ w = v :=
  ⟨fun h => by rw [← joinWord_splitWord w, h, joinWord_splitWord], congrArg splitWord⟩

theorem splitWord_eq_iff {w : Word} {f : CommandFields} : splitWord w = f ↔ w = joinWord f := by
  rw [← splitWord_inj, splitWord_joinWord]

/-- OPC is the word's low byte (30_encoding.md R91). -/
theorem splitWord_opc_toNat (w : Word) : (splitWord w).opc.toNat = w.toNat % 256 := by
  simp [splitWord]

/-! ### The codes of the fields -/

@[simp] theorem modeOfCode_code (mode : Mode) : modeOfCode mode.code = mode := by cases mode <;> rfl

@[simp] theorem code_modeOfCode (c : BitVec 2) : (modeOfCode c).code = c := by revert c; decide

@[simp] theorem tailOfCode_code (tail : Tail) : tailOfCode tail.code = tail := by cases tail <;> rfl

@[simp] theorem code_tailOfCode (c : BitVec 1) : (tailOfCode c).code = c := by revert c; decide

@[simp] theorem hdirOfCode_code (hdir : HDir) : hdirOfCode hdir.code = hdir := by cases hdir <;> rfl

@[simp] theorem code_hdirOfCode (c : BitVec 2) : (hdirOfCode c).code = c := by revert c; decide

@[simp] theorem vdirOfCode_code (vdir : VDir) : vdirOfCode vdir.code = vdir := by cases vdir <;> rfl

@[simp] theorem code_vdirOfCode (c : BitVec 2) : (vdirOfCode c).code = c := by revert c; decide

/-- CROP is its code read as a Bool (30_encoding.md R94). -/
theorem ofBool_beq_one (crop : Bool) : (BitVec.ofBool crop == 1#1) = crop := by cases crop <;> rfl

theorem ofBool_of_beq_one (c : BitVec 1) : BitVec.ofBool (c == 1#1) = c := by revert c; decide

/-! ### The rows of the table -/

/-- The fields a command carries: the "fields" column of its row (30_encoding.md R98). -/
def carried : Instr → UsedFields
  | .limit _ | .pdec _ => { mode := true }
  | .penc _ _ => { mode := true, tail := true }
  | .tiles _ _ => { hdir := true, vdir := true }
  | .memblk _ => { crop := true }
  | _ => noFields

theorem usedFields_opc (i : Instr) : usedFields i.opc = some (carried i) := by cases i <;> rfl

theorem toFields_opc (i : Instr) : i.toFields.opc = i.opc := by cases i <;> rfl

/-- The table lists each opcode once. -/
theorem usedFields_eq_some_iff {opc : Byte} {u : UsedFields} : usedFields opc = some u ↔ (opc, u) ∈ opcodeMap := by
  constructor
  · intro h
    obtain ⟨l₁, l₂, hl, -⟩ := List.lookup_eq_some_iff.1 h
    simp [hl]
  · have hrows : ∀ r ∈ opcodeMap, usedFields r.1 = some r.2 := by decide
    exact hrows (opc, u)

/-- The fields with every bit that a row does not use put to 0. -/
def keepUsed (u : UsedFields) (f : CommandFields) : CommandFields :=
  { opc := f.opc
    mode := if u.mode then f.mode else 0
    tail := if u.tail then f.tail else 0
    crop := if u.crop then f.crop else 0
    hdir := if u.hdir then f.hdir else 0
    vdir := if u.vdir then f.vdir else 0
    reserved := 0 }

theorem keepUsed_toFields (i : Instr) : keepUsed (carried i) i.toFields = i.toFields := by cases i <;> rfl

/-- A field survives exactly when it is used or 0. -/
theorem ite_zero_eq_self_iff {n : Nat} (used : Bool) (x : BitVec n) :
    (if used then x else 0) = x ↔ used = true ∨ x = 0 := by
  cases used with
  | false => simpa using eq_comm
  | true => simp

theorem keepUsed_eq_self_iff (u : UsedFields) (f : CommandFields) :
    keepUsed u f = f ↔ (u.mode = true ∨ f.mode = 0) ∧ (u.tail = true ∨ f.tail = 0) ∧ (u.crop = true ∨ f.crop = 0) ∧
      (u.hdir = true ∨ f.hdir = 0) ∧ (u.vdir = true ∨ f.vdir = 0) ∧ f.reserved = 0 := by
  obtain ⟨opc, mode, tail, crop, hdir, vdir, reserved⟩ := f
  simp only [keepUsed, CommandFields.mk.injEq, ite_zero_eq_self_iff, true_and, @eq_comm _ 0 reserved]

/-- Legal fields are those of a row with nothing outside it (30_encoding.md R97). -/
theorem wellFormed_iff_keepUsed (f : CommandFields) :
    f.wellFormed = true ↔ ∃ u, usedFields f.opc = some u ∧ keepUsed u f = f := by
  cases hu : usedFields f.opc <;>
    simp [CommandFields.wellFormed, CommandFields.opcAssigned, CommandFields.unusedZero, CommandFields.reservedZero,
      hu, keepUsed_eq_self_iff, and_assoc]

theorem wellFormed_toFields (i : Instr) : i.toFields.wellFormed = true :=
  (wellFormed_iff_keepUsed _).2 ⟨carried i, by rw [toFields_opc, usedFields_opc], keepUsed_toFields i⟩

/-! ### The command an opcode selects -/

theorem instrOfFields_toFields (i : Instr) : instrOfFields i.toFields = some i := by
  cases i <;> simp [Instr.toFields, Instr.opc, instrOfFields, ofBool_beq_one]

theorem opc_of_instrOfFields {f : CommandFields} {i : Instr} (h : instrOfFields f = some i) : f.opc = i.opc := by
  unfold instrOfFields at h
  split at h <;> cases h
  all_goals exact BitVec.eq_of_toNat_eq ‹_›

/-- The selected command carries the fields of its row as they stand in the word. -/
theorem toFields_of_instrOfFields {f : CommandFields} {i : Instr} (h : instrOfFields f = some i) :
    i.toFields = keepUsed (carried i) f := by
  have hopc := opc_of_instrOfFields h
  unfold instrOfFields at h
  split at h <;> cases h
  all_goals simp [Instr.toFields, keepUsed, carried, noFields, hopc, ofBool_of_beq_one]

theorem exists_instrOfFields {f : CommandFields} {i : Instr} (h : f.opc = i.opc) : ∃ j, instrOfFields f = some j := by
  cases i <;> simp [instrOfFields, h, Instr.opc]

/-- Every row of the table is the row of a command. -/
theorem exists_instr_of_usedFields {opc : Byte} {u : UsedFields} (h : usedFields opc = some u) :
    ∃ i : Instr, opc = i.opc := by
  have hrows : ∀ r ∈ opcodeMap, (instrOfFields ⟨r.1, 0, 0, 0, 0, 0, 0⟩).isSome = true := by decide
  obtain ⟨i, hi⟩ := Option.isSome_iff_exists.1 (hrows _ (usedFields_eq_some_iff.1 h))
  exact ⟨i, opc_of_instrOfFields hi⟩

/-! ### Decoding -/

theorem decode_eq_instr_iff {w : Word} {i : Instr} :
    decode w = .instr i ↔ instrOfFields (splitWord w) = some i ∧ (splitWord w).wellFormed = true := by
  cases h : instrOfFields (splitWord w) with
  | none => simp [decode, h]
  | some j => cases hw : (splitWord w).wellFormed <;> simp [decode, h, hw]

/-- A word decodes to a command when its fields are that command's. -/
theorem decode_eq_instr_iff_splitWord {w : Word} {i : Instr} : decode w = .instr i ↔ splitWord w = i.toFields := by
  rw [decode_eq_instr_iff]
  constructor
  · rintro ⟨hi, hwf⟩
    obtain ⟨u, hu, hkeep⟩ := (wellFormed_iff_keepUsed _).1 hwf
    rw [opc_of_instrOfFields hi, usedFields_opc] at hu
    cases hu
    rw [toFields_of_instrOfFields hi, hkeep]
  · intro h
    rw [h]
    exact ⟨instrOfFields_toFields i, wellFormed_toFields i⟩

/-- Settles O1: a word decodes to a command when its fields are the command's, and a word is its fields joined. -/
theorem decodeInvertsEncode : Obligations.DecodeInvertsEncode :=
  ⟨wellFormed_toFields, fun _ _ => decode_eq_instr_iff_splitWord.trans splitWord_eq_iff⟩

theorem decode_encode (i : Instr) : decode (encode i) = .instr i := (decodeInvertsEncode.2 _ i).2 rfl

/-- Settles O6: each of the words is the encoding of its command. -/
theorem sampleWordsDecode : Obligations.SampleWordsDecode :=
  ⟨decode_encode .nop, decode_encode .enc0, decode_encode (.limit .m3), decode_encode .pfind, decode_encode .danext,
    decode_encode (.penc .m1 .pad), decode_encode (.pdec .m1), decode_encode .sprzz,
    decode_encode (.tiles .startFromLeftAndFlip .grayCodeFromTop), decode_encode (.memblk true)⟩

/-! ### Legal words -/

/-- A word decodes to a command exactly when its fields are legal (30_encoding.md R97). -/
theorem exists_decode_iff {w : Word} : (∃ i, decode w = .instr i) ↔ (splitWord w).wellFormed = true := by
  constructor
  · rintro ⟨i, hi⟩
    exact (decode_eq_instr_iff.1 hi).2
  · intro hwf
    obtain ⟨u, hu, -⟩ := (wellFormed_iff_keepUsed _).1 hwf
    obtain ⟨j, hj⟩ := exists_instr_of_usedFields hu
    obtain ⟨i, hi⟩ := exists_instrOfFields hj
    exact ⟨i, decode_eq_instr_iff.2 ⟨hi, hwf⟩⟩

/-- A row of the table as a mask and a match (30_encoding.md R97). -/
def maskRow (r : Byte × UsedFields) : Word × Word := (rowMask r.2, r.1.setWidth 32)

/-- The statement's masks and matches are those of the model's table, in another order. -/
theorem mem_maskMatch_iff {p : Word × Word} : p ∈ maskMatch ↔ ∃ r ∈ opcodeMap, maskRow r = p := by
  have hperm : (opcodeMap.map maskRow).Perm maskMatch := by decide
  rw [← hperm.mem_iff, List.mem_map]

/-- The library states this for fields below the top bit; the reserved bits reach it. -/
theorem extractLsb'_not {n start len : Nat} (v : BitVec n) (h : start + len ≤ n) :
    (~~~ v).extractLsb' start len = ~~~ v.extractLsb' start len := by
  ext i hi
  simpa using by omega

/-- Masking a word masks each of its fields. -/
theorem splitWord_and_not (w v : Word) :
    splitWord (w &&& ~~~ v) =
      { opc := (splitWord w).opc &&& ~~~ (splitWord v).opc
        mode := (splitWord w).mode &&& ~~~ (splitWord v).mode
        tail := (splitWord w).tail &&& ~~~ (splitWord v).tail
        crop := (splitWord w).crop &&& ~~~ (splitWord v).crop
        hdir := (splitWord w).hdir &&& ~~~ (splitWord v).hdir
        vdir := (splitWord w).vdir &&& ~~~ (splitWord v).vdir
        reserved := (splitWord w).reserved &&& ~~~ (splitWord v).reserved } := by
  simp [splitWord, BitVec.extractLsb'_and, extractLsb'_not]

/-- A widened value is 0 above its own bits. -/
theorem extractLsb'_setWidth_above {n m start len : Nat} (x : BitVec n) (h : n ≤ start) :
    (x.setWidth m).extractLsb' start len = 0 := by
  ext i hi
  simp [BitVec.getLsbD_of_ge x (start + i) (by omega)]

/-- A row's match has the opcode and no other bit. -/
theorem splitWord_setWidth_opc (opc : Byte) : splitWord (opc.setWidth 32) = ⟨opc, 0, 0, 0, 0, 0, 0⟩ := by
  simp [splitWord, extractLsb'_setWidth_above, BitVec.extractLsb'_setWidth_of_le]

/-- What a row's mask leaves of a field is 0 exactly when the row uses the field or the field is 0. -/
theorem and_not_used_eq_zero_iff {n : Nat} {full : BitVec n} (hfull : full = BitVec.allOnes n) (used : Bool)
    (x : BitVec n) : x &&& ~~~ (if used then full else 0) = 0 ↔ used = true ∨ x = 0 := by
  subst hfull
  cases used <;> simp

theorem and_not_zero {n : Nat} (x : BitVec n) : x &&& ~~~ 0 = x := by simp

/-- A row accepts the words with its opcode and nothing outside its fields (30_encoding.md R97). -/
theorem and_rowMask_iff (w : Word) (r : Byte × UsedFields) :
    w &&& (maskRow r).1 = (maskRow r).2 ↔ (splitWord w).opc = r.1 ∧ keepUsed r.2 (splitWord w) = splitWord w := by
  rw [← splitWord_inj, maskRow, rowMask, splitWord_and_not,
    splitWord_joinWord, splitWord_setWidth_opc, keepUsed_eq_self_iff, CommandFields.mk.injEq]
  have h1 := and_not_used_eq_zero_iff (rfl : (1 : BitVec 1) = BitVec.allOnes 1)
  have h3 := and_not_used_eq_zero_iff (rfl : (3 : BitVec 2) = BitVec.allOnes 2)
  simp only [h1, h3, and_not_zero]

theorem wellFormed_iff_maskMatch (w : Word) :
    (splitWord w).wellFormed = true ↔ ∃ p ∈ maskMatch, w &&& p.1 = p.2 := by
  rw [wellFormed_iff_keepUsed]
  constructor
  · rintro ⟨u, hu, hkeep⟩
    exact ⟨_, mem_maskMatch_iff.2 ⟨_, usedFields_eq_some_iff.1 hu, rfl⟩, (and_rowMask_iff w _).2 ⟨rfl, hkeep⟩⟩
  · rintro ⟨p, hp, hw⟩
    obtain ⟨r, hr, rfl⟩ := mem_maskMatch_iff.1 hp
    obtain ⟨hopc, hkeep⟩ := (and_rowMask_iff w r).1 hw
    exact ⟨r.2, usedFields_eq_some_iff.2 (hopc ▸ hr), hkeep⟩

/-- A word that decodes to no command is completed with ILLEGAL_OPCODE alone (30_encoding.md R97). -/
theorem engineStep_illegal {s : State} (h : ¬ ∃ i, decode s.snap.cmd = .instr i) :
    engineStep s = .next (failed s 0x01 s.snap.cmd 0 0 0) := by
  obtain ⟨i, hi, -⟩ | ⟨e, -, hstep⟩ := engineStep_cases s
  · exact absurd ⟨i, hi⟩ h
  · exact hstep

/-- Settles O2: the legal words are those of a row's fields, and a row's mask and match accept just them. -/
theorem legalWordsMatchTheTable : Obligations.LegalWordsMatchTheTable := by
  have hlegal : ∀ w : Word, (∃ i, decode w = .instr i) ↔ ∃ r ∈ maskMatch, w &&& r.1 = r.2 := fun w =>
    exists_decode_iff.trans (wellFormed_iff_maskMatch w)
  exact ⟨hlegal, fun s hs => engineStep_illegal (mt (hlegal _).1 hs)⟩

/-- No row of the table has an opcode of R99. -/
theorem usedFields_unassigned {opc : Byte} (h : opc.toNat ∈ unassigned) : usedFields opc = none := by
  have hrows : ∀ r ∈ opcodeMap, r.1.toNat ∉ unassigned := by decide
  exact Option.eq_none_iff_forall_ne_some.2 fun u hu => hrows _ (usedFields_eq_some_iff.1 hu) h

/-- Settles O3: a command's word has the opcode of a row, and R99's opcodes have none. -/
theorem unassignedOpcodesAreIllegal : Obligations.UnassignedOpcodesAreIllegal := by
  intro s hs
  rw [← splitWord_opc_toNat] at hs
  refine engineStep_illegal fun hlegal => ?_
  obtain ⟨u, hu, -⟩ := (wellFormed_iff_keepUsed _).1 (exists_decode_iff.1 hlegal)
  simp [usedFields_unassigned hs] at hu

end Sys2Proof.Proofs

/-! The pending command's one step (30_encoding.md R103 to R105): what it runs, how it completes, and the host's write
that makes a command pending. -/

namespace Sys2Proof.Proofs

open Sys2Proof Sys2Proof.Machine Sys2Proof.Laws Sys2Proof.Claims

/-! ### Completions -/

theorem errorCode_pos (e : CmdError) : 1 ≤ (errorCode e).toNat := by
  cases e <;> simp [errorCode]

/-- Error recording is the statements' `failed`, with the error's own code and information (60_exceptions.md R312). -/
theorem recordError_eq_failed (s : State) (e : CmdError) :
    recordError s e =
      failed s (errorCode e) (errorInfo e)[0] (errorInfo e)[1] (errorInfo e)[2] (errorInfo e)[3] := by
  cases e <;> rfl

theorem completeCommand_ends_command (s : State) (o : CmdOutcome) :
    (completeCommand s o).status.busy = false ∧ (completeCommand s o).pending = false ∧
      (completeCommand s o).status.done = true := by
  cases o with
  | raise e => exact ⟨rfl, rfl, rfl⟩
  | commit fx => exact ⟨rfl, rfl, rfl⟩

/-- The engine's step always answers, with some completion (30_encoding.md R105). -/
theorem engineStep_eq_complete (s : State) : ∃ o, engineStep s = .next (completeCommand s o) := by
  obtain ⟨i, -, hstep⟩ | ⟨e, -, hstep⟩ := engineStep_cases s
  · exact ⟨commandOutcome i s, hstep⟩
  · exact ⟨.raise (.illegalOpcode s.snap.cmd), hstep⟩

/-- Settles O28: the engine's step is a completion, which records an error or commits. -/
theorem completionsArePreciseAndAtomic : Obligations.CompletionsArePreciseAndAtomic := by
  intro s
  obtain ⟨o, hstep⟩ := engineStep_eq_complete s
  cases o with
  | raise e =>
    rw [completeCommand_raise, recordError_eq_failed] at hstep
    exact .inl ⟨errorCode e, _, _, _, _, errorCode_pos e, errorCode_known e, hstep⟩
  | commit fx => exact .inr ⟨commitCommand s fx, hstep, rfl, rfl, rfl, rfl, rfl, rfl, rfl, rfl, rfl⟩

/-! ### The step of a pending command -/

theorem engineTurn_pending {s : State} (h : s.pending = true) : engineTurn s = engineStep s := if_pos h

theorem engineStep_eq_exec {s : State} {i : Instr} (h : decode s.snap.cmd = .instr i) : engineStep s = exec i s := by
  simp [engineStep, h]

/-- The engine's move, first on the schedule, is its step with that move taken off (log entry 1). -/
theorem step_engine {s : State} {rest : List Event} (hp : s.pending = true) (hs : s.schedule = .engine :: rest) :
    step s = engineStep { s with schedule := rest } := by
  rw [step_cons hs]
  exact engineTurn_pending hp

theorem step_empty_pending {s : State} (hp : s.pending = true) (hs : s.schedule = []) : step s = engineStep s :=
  (step_empty hs).trans (engineTurn_pending hp)

/-- Settles O4: the step is the engine's, which runs the decoded command. -/
theorem stepRunsTheDecodedCommand : Obligations.StepRunsTheDecodedCommand := by
  intro s i hp hi
  refine ⟨fun hs => ?_, fun rest hs => ?_⟩
  · rw [step_empty_pending hp hs, engineStep_eq_exec hi]
  · rw [step_engine hp hs]
    exact engineStep_eq_exec hi

/-- Settles O31: the step is the engine's, and every completion ends the command. -/
theorem pendingCommandCompletesInOneStep : Obligations.PendingCommandCompletesInOneStep := by
  intro s hp hs
  obtain hs | ⟨rest, hs⟩ := hs
  · obtain ⟨o, hstep⟩ := engineStep_eq_complete s
    exact ⟨_, (step_empty_pending hp hs).trans hstep, completeCommand_ends_command s o⟩
  · obtain ⟨o, hstep⟩ := engineStep_eq_complete { s with schedule := rest }
    exact ⟨_, (step_engine hp hs).trans hstep, completeCommand_ends_command _ o⟩

/-! ### Accepting a command -/

/-- A word of 32 bits is taken whole (log entry 2). -/
theorem withFetchWord_toNat (s : State) (w : Word) : s.withFetchWord 32 w.toNat = withCommandPending s w := by
  rw [State.withFetchWord, BitVec.toNat_mod_cancel, BitVec.ofNat_toNat, BitVec.setWidth_eq]

/-- Settles O5: a command is pending and the engine's move is first. -/
theorem fetchWordRunsNext : Obligations.FetchWordRunsNext := by
  intro s w
  rw [withFetchWord_toNat]
  exact step_engine rfl rfl

/-- Settles O32: the write passes the checks of R68, and an idle block accepts what is written to CMD. -/
theorem cmdWriteAcceptsACommand : Obligations.CmdWriteAcceptsACommand := by
  intro s v rest hb hs
  have hcmd : regAt 0x0C = .cmd := regAt_regOffset .cmd
  rw [step_regWrite_idle hb hs rfl (by decide), hcmd]
  rfl

end Sys2Proof.Proofs

/-! The pixel codec's bytes (40_pixel_codec.md R120 to R127): the encoders' bits, the decoders' values, and the two
round trips between them (R147). -/

namespace Sys2Proof.Proofs

open Sys2Proof Sys2Proof.Machine Sys2Proof.Laws Sys2Proof.Claims

/-! ### What the encoders show -/

/-- The mode-2 bit of a pen, moved to its pixel's place, stands there alone. -/
theorem getLsbD_bit2_shiftLeft (p : Byte) {n i : Nat} (hi : i < 8) :
    (bit2 p <<< n).getLsbD i = (decide (i = n) && decide (1 ≤ p.toNat ∧ p.toNat ≤ 3)) := by
  have hmove : bit2 p <<< n = moveBit (bit2 p) 0 n := by
    rw [bit2_eq]
    split <;> rfl
  rw [hmove, getLsbD_moveBit _ _ _ _ hi, bit2_eq]
  split <;> simp [*]

theorem showsPens_enc0 (g : Nat → Byte) : ShowsPens .m0 g (enc0 (g 0) (g 1)) := by
  simp only [ShowsPens, enc0, BitVec.getLsbD_or, getLsbD_moveBit, Nat.reduceLT]
  simp

theorem showsPens_enc1_clamp1 (g : Nat → Byte) :
    ShowsPens .m1 g (enc1 (clamp1 (g 0)) (clamp1 (g 1)) (clamp1 (g 2)) (clamp1 (g 3))) := by
  intro k hk
  have hhigh : 7 - k < 8 := by omega
  have hlow : 3 - k < 8 := by omega
  simp only [enc1, BitVec.getLsbD_or, getLsbD_moveBit, getLsbD_clamp1, hhigh, hlow]
  interval_cases k <;> simp

theorem showsPens_enc2 (g : Nat → Byte) : ShowsPens .m2 g (enc2 g) := by
  intro k hk
  simp only [enc2, BitVec.getLsbD_or, getLsbD_bit2_shiftLeft, Nat.sub_lt_succ]
  interval_cases k <;> simp

/-- The encoder of each mode follows its bit map, whatever the pens. -/
theorem showsPens_encGroup (mode : Mode) (g : Nat → Byte) : ShowsPens mode g (encGroup mode g) := by
  cases mode with
  | m0 | m3 => exact showsPens_enc0 g
  | m1 => exact showsPens_enc1_clamp1 g
  | m2 => exact showsPens_enc2 g

/-- The bit map of a mode fixes every bit of its byte. -/
theorem showsPens_unique {mode : Mode} {g : Nat → Byte} {b c : Byte} (hb : ShowsPens mode g b)
    (hc : ShowsPens mode g c) : b = c := by
  apply BitVec.eq_of_getLsbD_eq
  intro i hi
  cases mode with
  | m0 | m3 =>
    obtain ⟨b7, b6, b5, b4, b3, b2, b1, b0⟩ := hb
    obtain ⟨c7, c6, c5, c4, c3, c2, c1, c0⟩ := hc
    interval_cases i <;> simp only [*]
  | m1 =>
    by_cases h : i ≤ 3
    · have hbit : 3 - (3 - i) = i := by omega
      have hcol := ((hb (3 - i) (by omega)).2).trans ((hc (3 - i) (by omega)).2).symm
      rwa [hbit] at hcol
    · have hbit : 7 - (7 - i) = i := by omega
      have hcol := ((hb (7 - i) (by omega)).1).trans ((hc (7 - i) (by omega)).1).symm
      rwa [hbit] at hcol
  | m2 =>
    have hbit : 7 - (7 - i) = i := by omega
    have hpix := (hb (7 - i) (by omega)).trans (hc (7 - i) (by omega)).symm
    rwa [hbit] at hpix

/-! ### What the decoders answer -/

theorem toNat_dec0_nibble (b : Byte) (i0 i1 i2 i3 : Nat) :
    (moveBit b i0 0 ||| moveBit b i1 1 ||| moveBit b i2 2 ||| moveBit b i3 3).toNat =
      (b.getLsbD i0).toNat + 2 * (b.getLsbD i1).toNat + 4 * (b.getLsbD i2).toNat + 8 * (b.getLsbD i3).toNat := by
  simp only [moveBit]
  generalize b.getLsbD i0 = x0
  generalize b.getLsbD i1 = x1
  generalize b.getLsbD i2 = x2
  generalize b.getLsbD i3 = x3
  revert x0 x1 x2 x3
  decide

theorem toNat_dec1Pen (b : Byte) (i : Nat) : (dec1Pen b i).toNat = penShown .m1 b i := by
  simp only [dec1Pen, moveBit, penShown]
  cases b.getLsbD (7 - i) <;> cases b.getLsbD (3 - i) <;> rfl

theorem toNat_dec2Pen (b : Byte) (i : Nat) : (dec2Pen b i).toNat = penShown .m2 b i := by
  simp only [dec2Pen, moveBit, penShown]
  cases b.getLsbD (7 - i) <;> rfl

theorem toNat_and_three (p : Byte) : (p &&& 3).toNat = p.toNat % 4 := by
  rw [BitVec.toNat_and]
  exact Nat.and_two_pow_sub_one_eq_mod p.toNat 2

/-- Mode 3 shows the mode-0 pen modulo 4 (40_pixel_codec.md R125). -/
theorem penShown_m3 (b : Byte) (i : Nat) : penShown .m3 b i = penShown .m0 b i % 4 := by
  simp only [penShown]
  have := Bool.toNat_lt (b.getLsbD (7 - i))
  have := Bool.toNat_lt (b.getLsbD (3 - i))
  omega

/-- The decoder of each mode answers the pens its byte shows. -/
theorem toNat_decPen {mode : Mode} (b : Byte) {i : Nat} (hi : i < ppb mode) :
    (decPen mode b i).toNat = penShown mode b i := by
  have hdec0 : ∀ i < 2, (decPen .m0 b i).toNat = penShown .m0 b i := by
    intro i hi
    interval_cases i <;> exact toNat_dec0_nibble b ..
  cases mode with
  | m0 => exact hdec0 i hi
  | m1 => exact toNat_dec1Pen b i
  | m2 => exact toNat_dec2Pen b i
  | m3 =>
    have hmask : decPen .m3 b i = decPen .m0 b i &&& 3 := by simp only [decPen, dec3]; split <;> rfl
    rw [hmask, toNat_and_three, hdec0 i hi, penShown_m3]

/-! ### The pens of a mode -/

/-- The number of pens of a mode: its masks of 40_pixel_codec.md R127 keep the pens below it. -/
def colours : Mode → Nat
  | .m0 => 16
  | .m1 => 4
  | .m2 => 2
  | .m3 => 4

theorem toNat_limitPen (mode : Mode) (p : Byte) : (limitPen mode p).toNat = p.toNat % colours mode := by
  rw [limitPen, BitVec.toNat_and]
  cases mode with
  | m0 => exact Nat.and_two_pow_sub_one_eq_mod p.toNat 4
  | m1 | m3 => exact Nat.and_two_pow_sub_one_eq_mod p.toNat 2
  | m2 => exact Nat.and_two_pow_sub_one_eq_mod p.toNat 1

theorem penShown_lt_colours (mode : Mode) (b : Byte) (i : Nat) : penShown mode b i < colours mode := by
  have := Bool.toNat_lt (b.getLsbD (7 - i))
  have := Bool.toNat_lt (b.getLsbD (3 - i))
  have := Bool.toNat_lt (b.getLsbD (5 - i))
  have := Bool.toNat_lt (b.getLsbD (1 - i))
  cases mode <;> simp only [penShown, colours] <;> omega

theorem toNat_decPen_lt {mode : Mode} (b : Byte) {i : Nat} (hi : i < ppb mode) :
    (decPen mode b i).toNat < colours mode := by
  rw [toNat_decPen b hi]
  exact penShown_lt_colours mode b i

theorem toNat_mod_four (p : Byte) : p.toNat % 4 = (p.getLsbD 0).toNat + 2 * (p.getLsbD 1).toNat := by
  simp only [BitVec.getLsbD, Nat.toNat_testBit]
  omega

theorem toNat_mod_sixteen (p : Byte) :
    p.toNat % 16 = (p.getLsbD 0).toNat + 2 * (p.getLsbD 1).toNat + 4 * (p.getLsbD 2).toNat +
      8 * (p.getLsbD 3).toNat := by
  simp only [BitVec.getLsbD, Nat.toNat_testBit]
  omega

/-- In modes 0 and 3 a pixel shows its pen modulo the number of pens. -/
theorem penShown_m0_of_showsPens {g : Nat → Byte} {b : Byte} (h : ShowsPens .m0 g b) {i : Nat} (hi : i < 2) :
    penShown .m0 b i = (g i).toNat % 16 := by
  obtain ⟨b7, b6, b5, b4, b3, b2, b1, b0⟩ := h
  rw [toNat_mod_sixteen]
  interval_cases i
  · simp only [penShown, b7, b5, b3, b1]
  · simp only [penShown, b6, b4, b2, b0]

theorem penShown_m3_of_showsPens {g : Nat → Byte} {b : Byte} (h : ShowsPens .m3 g b) {i : Nat} (hi : i < 2) :
    penShown .m3 b i = (g i).toNat % 4 := by
  rw [penShown_m3, penShown_m0_of_showsPens h hi]
  omega

/-- A byte that shows pens of its mode shows each of them at its pixel. -/
theorem penShown_of_showsPens {mode : Mode} {g : Nat → Byte} {b : Byte} (h : ShowsPens mode g b) {i : Nat}
    (hi : i < ppb mode) (hg : (g i).toNat < colours mode) : penShown mode b i = (g i).toNat := by
  cases mode with
  | m0 => exact (penShown_m0_of_showsPens h hi).trans (Nat.mod_eq_of_lt hg)
  | m1 =>
    obtain ⟨hlow, hhigh⟩ := h i hi
    have hg3 : (g i).toNat ≤ 3 := Nat.le_of_lt_succ hg
    simp only [penShown, hlow, hhigh, hg3, decide_true, Bool.true_and]
    rw [← toNat_mod_four]
    exact Nat.mod_eq_of_lt hg
  | m2 =>
    have hg2 : (g i).toNat < 2 := hg
    rw [penShown, h i hi]
    interval_cases (g i).toNat <;> rfl
  | m3 => exact (penShown_m3_of_showsPens h hi).trans (Nat.mod_eq_of_lt hg)

/-! ### The round trips -/

/-- Decoding what a mode's encoder made gives back each pen of the mode. -/
theorem decPen_encGroup {mode : Mode} {g : Nat → Byte} {i : Nat} (hi : i < ppb mode)
    (hg : (g i).toNat < colours mode) : decPen mode (encGroup mode g) i = g i :=
  BitVec.eq_of_toNat_eq ((toNat_decPen _ hi).trans (penShown_of_showsPens (showsPens_encGroup mode g) hi hg))

/-- A byte shows the pens its decoder answers; mode 3 drops two bits of each mode-0 pen. -/
theorem showsPens_decPen {mode : Mode} (hmode : mode ≠ .m3) (b : Byte) : ShowsPens mode (decPen mode b) b := by
  cases mode with
  | m0 =>
    simp only [ShowsPens, decPen, dec0, if_pos, if_neg Nat.one_ne_zero, BitVec.getLsbD_or, getLsbD_moveBit,
      Nat.reduceLT]
    simp
  | m1 =>
    intro k hk
    have hle : (dec1Pen b k).toNat ≤ 3 := Nat.le_of_lt_succ (toNat_decPen_lt (mode := .m1) b hk)
    simp only [decPen, hle, decide_true, Bool.true_and]
    simp only [dec1Pen, BitVec.getLsbD_or, getLsbD_moveBit, Nat.reduceLT]
    simp
  | m2 =>
    intro k hk
    simp only [decPen, toNat_dec2Pen, penShown]
    cases b.getLsbD (7 - k) <;> rfl
  | m3 => exact absurd rfl hmode

/-- In modes 0, 1 and 2 every byte is the encoding of the pens it decodes to. -/
theorem encGroup_decPen {mode : Mode} (hmode : mode ≠ .m3) (b : Byte) : encGroup mode (decPen mode b) = b :=
  showsPens_unique (showsPens_encGroup mode (decPen mode b)) (showsPens_decPen hmode b)

theorem clamp1_of_lt {p : Byte} (h : p.toNat < 4) : clamp1 p = p := by
  have hle : p.toNat ≤ 3 := Nat.le_of_lt_succ h
  simp [clamp1, penClamps, hle]

/-- The pens of a list as the pens of a group's pixels, the first at pixel 0. -/
def penList (ps : List Byte) (i : Nat) : Byte := ps.getD i 0

theorem dec1Pen_enc1 {g : Nat → Byte} (h : ∀ i < 4, (g i).toNat < 4) {i : Nat} (hi : i < 4) :
    dec1Pen (enc1 (g 0) (g 1) (g 2) (g 3)) i = g i := by
  have hclamp : encGroup .m1 g = enc1 (g 0) (g 1) (g 2) (g 3) := by
    simp only [encGroup, clamp1_of_lt, h, Nat.lt_add_one, Nat.reduceLT]
  rw [← hclamp]
  exact decPen_encGroup (mode := .m1) hi (h i hi)

theorem enc1_dec1Pen (b : Byte) : enc1 (dec1Pen b 0) (dec1Pen b 1) (dec1Pen b 2) (dec1Pen b 3) = b := by
  have hlt : ∀ i < 4, (dec1Pen b i).toNat < 4 := fun i hi => toNat_decPen_lt (mode := .m1) b hi
  have hround := encGroup_decPen (mode := .m1) nofun b
  simpa only [encGroup, decPen, clamp1_of_lt, hlt, Nat.lt_add_one, Nat.reduceLT] using hround

theorem dec0_enc0 {p0 p1 : Byte} (h0 : p0.toNat < 16) (h1 : p1.toNat < 16) : dec0 (enc0 p0 p1) = (p0, p1) :=
  Prod.ext (decPen_encGroup (mode := .m0) (g := penList [p0, p1]) (i := 0) (by decide) h0)
    (decPen_encGroup (mode := .m0) (g := penList [p0, p1]) (i := 1) (by decide) h1)

theorem dec3_enc3 {p0 p1 : Byte} (h0 : p0.toNat < 4) (h1 : p1.toNat < 4) : dec3 (enc3 p0 p1) = (p0, p1) :=
  Prod.ext (decPen_encGroup (mode := .m3) (g := penList [p0, p1]) (i := 0) (by decide) h0)
    (decPen_encGroup (mode := .m3) (g := penList [p0, p1]) (i := 1) (by decide) h1)

/-- Settles O54: the decoder and the encoder of a mode undo each other, pixel by pixel. -/
theorem codecRoundTrips : Obligations.CodecRoundTrips := by
  refine ⟨fun _ _ => dec0_enc0, fun q0 q1 q2 q3 h0 h1 h2 h3 => ?_,
    fun q h k hk => decPen_encGroup (mode := .m2) hk (h k hk), fun _ _ => dec3_enc3, fun b => ?_,
    fun b => ⟨fun k hk => toNat_decPen_lt (mode := .m1) b hk, enc1_dec1Pen b⟩,
    fun b => ⟨fun k hk => toNat_decPen_lt (mode := .m2) b hk, encGroup_decPen (mode := .m2) nofun b⟩⟩
  · have hvalid : ∀ i < 4, (penList [q0, q1, q2, q3] i).toNat < 4 := by
      intro i hi
      interval_cases i <;> assumption
    have hround : ∀ i < 4, dec1Pen (enc1 q0 q1 q2 q3) i = penList [q0, q1, q2, q3] i := fun i hi =>
      dec1Pen_enc1 hvalid hi
    exact ⟨hround 0 (by decide), hround 1 (by decide), hround 2 (by decide), hround 3 (by decide)⟩
  · exact ⟨toNat_decPen_lt (mode := .m0) (i := 0) b (by decide), toNat_decPen_lt (mode := .m0) (i := 1) b (by decide),
      encGroup_decPen (mode := .m0) nofun b⟩

/-! ### The mixer -/

/-- Mode 3 reads each pixel of a mode-0 byte from that pixel's own bits. -/
theorem toNat_dec3_enc0 (p0 p1 : Byte) :
    (dec3 (enc0 p0 p1)).1.toNat = p0.toNat % 4 ∧ (dec3 (enc0 p0 p1)).2.toNat = p1.toNat % 4 := by
  have hpixel : ∀ i < 2, (decPen .m3 (enc0 p0 p1) i).toNat = (penList [p0, p1] i).toNat % 4 := fun i hi =>
    (toNat_decPen (mode := .m3) _ hi).trans
      (penShown_m3_of_showsPens (showsPens_encGroup .m3 (penList [p0, p1])) hi)
  exact ⟨hpixel 0 (by decide), hpixel 1 (by decide)⟩

/-- The 16 entries of the mixer table are pens of mode 0 with low bits p3 (40_pixel_codec.md R126). -/
theorem mix03_value : ∀ p0 < 4, ∀ p3 < 4, (mix03 p0 p3).toNat ≤ 15 ∧ (mix03 p0 p3).toNat % 4 = p3 := by
  decide

/-- Equal entries stand in the same column, by their low bits, and a column repeats no entry. -/
theorem mix03_injective {p0 p3 q0 q3 : Nat} (hp0 : p0 < 4) (hp3 : p3 < 4) (hq0 : q0 < 4) (hq3 : q3 < 4)
    (h : mix03 p0 p3 = mix03 q0 q3) : p0 = q0 ∧ p3 = q3 := by
  have hcolumn : p3 = q3 := by
    rw [← (mix03_value p0 hp0 p3 hp3).2, h, (mix03_value q0 hq0 q3 hq3).2]
  subst hcolumn
  have hrow : ∀ p3 < 4, ∀ p0 < 4, ∀ q0 < 4, mix03 p0 p3 = mix03 q0 p3 → p0 = q0 := by decide
  exact ⟨hrow p3 hp3 p0 hp0 q0 hq0 h, rfl⟩

/-- Settles O55: the table's values, and what mode 3 decodes of a pen it is given. -/
theorem mixerShowsTheMode3Pen : Obligations.MixerShowsTheMode3Pen := by
  refine ⟨fun p0 h0 p3 h3 => ?_, fun p0 hp0 p3 hp3 q0 hq0 q3 hq3 => mix03_injective hp0 hp3 hq0 hq3,
    rfl, rfl, rfl, rfl⟩
  obtain ⟨hle, hlow⟩ := mix03_value p0 h0 p3 h3
  exact ⟨hle, hlow, fun q =>
    ⟨(toNat_dec3_enc0 (mix03 p0 p3) q).1.trans hlow, (toNat_dec3_enc0 q (mix03 p0 p3)).2.trans hlow⟩⟩

end Sys2Proof.Proofs

/-! The pixel codec's scalar commands (40_pixel_codec.md R135 to R144): what each commits or raises. -/

namespace Sys2Proof.Proofs

open Sys2Proof Sys2Proof.Machine Sys2Proof.Laws Sys2Proof.Claims

/-! ### From a command's outcome to its meaning -/

theorem exec_of_raise {i : Instr} {s : State} {e : CmdError} (h : commandOutcome i s = .raise e) :
    exec i s =
      .next (failed s (errorCode e) (errorInfo e)[0] (errorInfo e)[1] (errorInfo e)[2] (errorInfo e)[3]) := by
  rw [exec_eq_complete, h, completeCommand_raise, recordError_eq_failed]

theorem exec_of_commit {i : Instr} {s : State} {fx : Effects} (h : commandOutcome i s = .commit fx) :
    exec i s = .next (commitCommand s fx) := by
  rw [exec_eq_complete, h, completeCommand_commit]

theorem exec_of_commit_res0 {i : Instr} {s : State} {r : Word} (h : commandOutcome i s = .commit { res0 := some r }) :
    exec i s = .next { succeeded s with res0 := r } :=
  (exec_of_commit h).trans (congrArg _ (commitCommand_buffer s r []))

theorem commitCommand_two_results (s : State) (r0 r1 : Word) :
    commitCommand s { res0 := some r0, res1 := some r1 } = { succeeded s with res0 := r0, res1 := r1 } := by
  simp [commitCommand, succeeded]

/-- W_CLAMP is set by a clamped pen, else it stays as it was (10_state.md R30). -/
theorem commitCommand_clamp (s : State) (r : Word) (ws : List Host.Cell) (c : Bool) :
    commitCommand s { res0 := some r, dmem := ws, warnings := { noWarnings with clamp := c } } =
      { succeeded s with
        res0 := r
        dmem := memWriteAll s.dmem ws
        status := { (succeeded s).status with wClamp := s.status.wClamp || c } } := by
  simp [commitCommand, succeeded, statusSuccess, noWarnings, memWriteAll]

theorem exec_of_commit_clamp {i : Instr} {s : State} {r : Word} {c : Bool}
    (h : commandOutcome i s = .commit { res0 := some r, warnings := { noWarnings with clamp := c } }) :
    exec i s = .next
      { succeeded s with
        res0 := r
        status := { (succeeded s).status with wClamp := s.status.wClamp || c } } :=
  (exec_of_commit h).trans (congrArg _ (commitCommand_clamp s r [] c))

/-! ### The encoders with an error: ENC0, ENC3, MIX03, LIMIT -/

/-- A pen checked against the largest one; `lane` is what BAD_PEN names (60_exceptions.md R312). -/
def checkPen (lane : Nat) (p : Byte) (top : Nat) (o : CmdOutcome) : CmdOutcome :=
  if p.toNat > top then .raise (.badPen lane p) else o

theorem checkPen_of_gt {lane : Nat} {p : Byte} {top : Nat} (h : p.toNat > top) (o : CmdOutcome) :
    checkPen lane p top o = .raise (.badPen lane p) := if_pos h

theorem checkPen_of_le {lane : Nat} {p : Byte} {top : Nat} (h : p.toNat ≤ top) (o : CmdOutcome) :
    checkPen lane p top o = o := if_neg (Nat.not_lt.2 h)

/-- A command that checks one pen and then answers RES0. -/
theorem exec_checkPen {i : Instr} {s : State} {p : Byte} {top : Nat} {r : Word}
    (h : commandOutcome i s = checkPen 0 p top (.commit { res0 := some r })) :
    (p.toNat ≤ top → exec i s = .next { succeeded s with res0 := r }) ∧
      (p.toNat > top → exec i s = .next (failed s 0x02 0 (p.setWidth 32) 0 0)) := by
  refine ⟨fun hle => ?_, fun hgt => ?_⟩
  · exact exec_of_commit_res0 (h.trans (checkPen_of_le hle _))
  · exact exec_of_raise (h.trans (checkPen_of_gt hgt _))

/-- A command that checks two pens in order and then answers RES0. -/
theorem exec_checkTwoPens {i : Instr} {s : State} {p0 p1 : Byte} {top : Nat} {r : Word}
    (h : commandOutcome i s = checkPen 0 p0 top (checkPen 1 p1 top (.commit { res0 := some r }))) :
    (p0.toNat ≤ top → p1.toNat ≤ top → exec i s = .next { succeeded s with res0 := r }) ∧
      (p0.toNat > top → exec i s = .next (failed s 0x02 0 (p0.setWidth 32) 0 0)) ∧
      (p0.toNat ≤ top → p1.toNat > top → exec i s = .next (failed s 0x02 1 (p1.setWidth 32) 0 0)) := by
  refine ⟨fun h0 h1 => ?_, fun h0 => ?_, fun h0 h1 => ?_⟩
  · exact exec_of_commit_res0 (h.trans ((checkPen_of_le h0 _).trans (checkPen_of_le h1 _)))
  · exact exec_of_raise (h.trans (checkPen_of_gt h0 _))
  · exact exec_of_raise (h.trans ((checkPen_of_le h0 _).trans (checkPen_of_gt h1 _)))

/-- ENC0 and ENC3 check both pens, then answer the byte of their mode's encoder. -/
theorem pairEncodeRule_of_outcome {i : Instr} {word : Word} {mode : Mode} {top : Nat} (hword : word = encode i)
    (h : ∀ s : State, commandOutcome i s =
      checkPen 0 (lane s.snap.args[0] 0) top (checkPen 1 (lane s.snap.args[0] 1) top
        (.commit { res0 := some (zext32 (encGroup mode (lane s.snap.args[0]))) }))) :
    pairEncodeRule i word mode top := by
  refine ⟨(decodeInvertsEncode.2 word i).2 hword, fun s => ?_⟩
  obtain ⟨hboth, hfirst, hsecond⟩ := exec_checkTwoPens (h s)
  exact ⟨fun h0 h1 => ⟨_, showsPens_encGroup mode _, hboth h0 h1⟩, hfirst, hsecond⟩

/-- Settles O8: both encoders are those of their mode behind the same two checks. -/
theorem pairEncodersFollowTheBitMap : Obligations.PairEncodersFollowTheBitMap :=
  ⟨pairEncodeRule_of_outcome rfl fun _ => rfl, pairEncodeRule_of_outcome rfl fun _ => rfl⟩

/-- The rows of 40_pixel_codec.md R126 one after another. -/
theorem zext32_mix03 : ∀ p0 ≤ 3, ∀ p3 ≤ 3, zext32 (mix03 p0 p3) =
    ([0, 5, 6, 7, 8, 1, 10, 11, 12, 13, 2, 15, 4, 9, 14, 3] : List Word).getD (4 * p0 + p3) 0 := by
  decide

/-- Settles O12: MIX03 checks both pens, then answers the table's entry. -/
theorem mix03LooksUpTheTable : Obligations.Mix03LooksUpTheTable := by
  refine ⟨decode_encode .mix03, ?_⟩
  rintro s p0 p3 rfl rfl
  obtain ⟨hboth, hfirst, hsecond⟩ := exec_checkTwoPens (i := .mix03) (s := s) rfl
  exact ⟨fun h0 h3 => by rw [hboth h0 h3, zext32_mix03 _ h0 _ h3], hfirst, hsecond⟩

theorem zext32_limitPen (mode : Mode) (p : Byte) :
    zext32 (limitPen mode p) = BitVec.ofNat 32 (p.toNat % colours mode) := by
  rw [← toNat_limitPen]
  exact (BitVec.ofNat_toNat 32 _).symm

/-- Settles O13: LIMIT checks its pen, Border allowed, then masks it. -/
theorem limitTruncatesToTheMode : Obligations.LimitTruncatesToTheMode := by
  intro mode
  refine ⟨(decodeInvertsEncode.2 _ _).2 (by cases mode <;> rfl), ?_⟩
  rintro s p rfl
  obtain ⟨hok, hbad⟩ := exec_checkPen (i := .limit mode) (s := s) rfl
  refine ⟨fun h => ?_, hbad⟩
  rw [hok h, zext32_limitPen]
  cases mode <;> rfl

/-! ### The encoders that clamp: ENC1, ENC2 -/

/-- Settles O9: ENC1 commits the mode-1 byte of its four lanes, with the warning. -/
theorem enc1ClampsAndEncodes : Obligations.Enc1ClampsAndEncodes :=
  ⟨decode_encode .enc1, fun s => ⟨_, showsPens_encGroup .m1 (lane s.snap.args[0]), exec_of_commit_clamp rfl⟩⟩

/-- Settles O10: ENC2 commits the mode-2 byte of its eight lanes, with the warning. -/
theorem enc2SetsABitForPensOneToThree : Obligations.Enc2SetsABitForPensOneToThree :=
  ⟨decode_encode .enc2, fun s => ⟨_, showsPens_encGroup .m2 (eightPens s.snap), exec_of_commit_clamp rfl⟩⟩

/-! ### The decoders -/

/-- Each lane of a word made of four bytes is its byte (20_memory.md R66). -/
theorem lane_ofLanes (b0 b1 b2 b3 : Byte) :
    lane (ofLanes b0 b1 b2 b3) 0 = b0 ∧ lane (ofLanes b0 b1 b2 b3) 1 = b1 ∧ lane (ofLanes b0 b1 b2 b3) 2 = b2 ∧
      lane (ofLanes b0 b1 b2 b3) 3 = b3 := by
  simp [-Nat.reduceAdd, lane, ofLanes, BitVec.extractLsb'_append_eq_of_le, BitVec.extractLsb'_append_eq_right]

/-- Four pixels from the first on fill the four lanes of a result. -/
theorem toNat_lane_ofLanes_decPen {mode : Mode} {b : Byte} {k : Nat} (hk : k + 3 < ppb mode) {i : Nat} (hi : i < 4) :
    (lane (ofLanes (decPen mode b k) (decPen mode b (k + 1)) (decPen mode b (k + 2)) (decPen mode b (k + 3))) i).toNat =
      penShown mode b (i + k) := by
  obtain ⟨h0, h1, h2, h3⟩ :=
    lane_ofLanes (decPen mode b k) (decPen mode b (k + 1)) (decPen mode b (k + 2)) (decPen mode b (k + 3))
  rw [Nat.add_comm i k, ← toNat_decPen b (by omega)]
  interval_cases i <;> simp only [h0, h1, h2, h3, Nat.add_zero]

/-- Two pixels fill two lanes of a result, and the others are 0. -/
theorem toNat_lane_ofLanes_pair {mode : Mode} (b : Byte) (hmode : 1 < ppb mode) {i : Nat} (hi : i < 4) :
    (lane (ofLanes (decPen mode b 0) (decPen mode b 1) 0 0) i).toNat = if i < 2 then penShown mode b i else 0 := by
  obtain ⟨h0, h1, h2, h3⟩ := lane_ofLanes (decPen mode b 0) (decPen mode b 1) 0 0
  interval_cases i
  · rw [h0, toNat_decPen b (by omega)]; rfl
  · rw [h1, toNat_decPen b hmode]; rfl
  · rw [h2]; rfl
  · rw [h3]; rfl

/-- Settles O11: each decoder commits the pens of its byte, one in a lane. -/
theorem scalarDecodersReadTheBitMap : Obligations.ScalarDecodersReadTheBitMap := by
  refine ⟨decode_encode .dec0, decode_encode .dec1, decode_encode .dec2, decode_encode .dec3, ?_⟩
  rintro s b rfl
  refine ⟨⟨_, exec_of_commit_res0 rfl, fun i hi => ?_⟩, ⟨_, exec_of_commit_res0 rfl, fun i hi => ?_⟩,
    ⟨_, _, (exec_of_commit rfl).trans (congrArg _ (commitCommand_two_results ..)), fun i hi => ⟨?_, ?_⟩⟩,
    ⟨_, exec_of_commit_res0 rfl, fun i hi => ?_⟩⟩
  · exact toNat_lane_ofLanes_pair (mode := .m0) _ (by decide) hi
  · exact toNat_lane_ofLanes_decPen (mode := .m1) (k := 0) (by decide) hi
  · exact toNat_lane_ofLanes_decPen (mode := .m2) (k := 0) (by decide) hi
  · exact toNat_lane_ofLanes_decPen (mode := .m2) (k := 4) (by decide) hi
  · exact toNat_lane_ofLanes_pair (mode := .m3) _ (by decide) hi

end Sys2Proof.Proofs

/-! The pixel codec's buffer commands, PENC and PDEC (40_pixel_codec.md R145, R146): the two range checks they share,
what each schedules, and the DMEM a packed output leaves. -/

namespace Sys2Proof.Proofs

open Sys2Proof Sys2Proof.Machine Sys2Proof.Laws Sys2Proof.Claims

/-! ### The range checks -/

/-- A source range checked before a destination range (20_memory.md R72). -/
def checkRanges (cfg : Config) (src n dst m : Nat) (o : CmdOutcome) : CmdOutcome :=
  if ¬ rangeOk cfg src n then .raise (.badAddr src (src + n) .source)
  else if ¬ rangeOk cfg dst m then .raise (.badAddr dst (dst + m) .destination)
  else o

/-- A command that checks its two ranges: BAD_ADDR for the first one out, else the outcome behind the checks. -/
theorem exec_checkRanges {i : Instr} {s : State} {src n dst m : Nat} {o : CmdOutcome}
    (h : commandOutcome i s = checkRanges s.cfg src n dst m o) :
    (¬ inRange s.cfg src n → exec i s = .next (badAddr s src n 0)) ∧
      (inRange s.cfg src n → ¬ inRange s.cfg dst m → exec i s = .next (badAddr s dst m 1)) ∧
      (inRange s.cfg src n → inRange s.cfg dst m → commandOutcome i s = o) := by
  refine ⟨fun hsrc => ?_, fun hsrc hdst => ?_, fun hsrc hdst => ?_⟩
  · exact exec_of_raise (h.trans (if_pos hsrc))
  · exact exec_of_raise (h.trans ((if_neg (not_not.2 hsrc)).trans (if_pos hdst)))
  · exact h.trans ((if_neg (not_not.2 hsrc)).trans (if_neg (not_not.2 hdst)))

/-- A packed output leaves every byte outside it as it was. -/
theorem keepsOutside_packed {s : State} (h : memWf s.dmem = true) (dst n : Nat) (f : Nat → Byte) :
    keepsOutside s (memWriteAll s.dmem (packed dst n f)) dst n := fun a ha =>
  (memRead_packed h dst n a f).trans (if_neg ha)

theorem memRead_packed_at {m : Memory} (h : memWf m = true) (dst : Nat) {n j : Nat} (hj : j < n) (f : Nat → Byte) :
    memRead (memWriteAll m (packed dst n f)) (dst + j) = f j := by
  rw [packed, memRead_packed h, if_pos (by omega), Nat.add_sub_cancel_left]

theorem pixelsPerByte_eq_ppb (mode : Mode) : pixelsPerByte mode = ppb mode := by cases mode <;> rfl

/-! ### PDEC -/

theorem encode_pdec (mode : Mode) : 0x00000034 ||| modeBits mode = encode (.pdec mode) := by cases mode <;> rfl

/-- What PDEC commits. -/
def pdecEffects (mode : Mode) (k : Snapshot) : Effects :=
  { res0 := some (BitVec.ofNat 32 (argNat k 2 * ppb mode))
    dmem := (List.range (argNat k 2)).flatMap fun j =>
      (List.range (ppb mode)).map fun i =>
        (argNat k 1 + j * ppb mode + i, decPen mode (srcByte k (argNat k 0 + j)) i) }

theorem commandOutcome_pdec (mode : Mode) (s : State) :
    commandOutcome (.pdec mode) s =
      checkRanges s.cfg (argNat s.snap 0) (argNat s.snap 2) (argNat s.snap 1) (argNat s.snap 2 * ppb mode)
        (.commit (pdecEffects mode s.snap)) := rfl

/-- Settles O23: PDEC writes its pixels as packed rows, one row of pens for each byte. -/
theorem pdecDecodesABuffer : Obligations.PdecDecodesABuffer := by
  intro mode
  refine ⟨(decodeInvertsEncode.2 _ _).2 (encode_pdec mode), ?_⟩
  rintro s src dst n k (rfl : src = argNat s.snap 0) (rfl : dst = argNat s.snap 1) (rfl : n = argNat s.snap 2) hk
  obtain rfl : k = ppb mode := hk.trans (pixelsPerByte_eq_ppb mode)
  obtain ⟨hsource, hdestination, hcommit⟩ := exec_checkRanges (commandOutcome_pdec mode s)
  refine ⟨hsource, hdestination, fun hsrc hdst hwf => ?_⟩
  have hexec := exec_of_commit (hcommit hsrc hdst)
  rw [pdecEffects, commitCommand_buffer] at hexec
  refine ⟨_, hexec, fun j hj i hi => ?_, ?_⟩
  · rw [memRead_packedRows_at hwf _ hj hi]
    exact toNat_decPen _ hi
  · rw [packedRows_eq]
    exact keepsOutside_packed hwf _ _ _

/-! ### PENC -/

theorem encode_penc (mode : Mode) (tail : Tail) :
    (0x00000033 ||| modeBits mode ||| if tail = .pad then 0x400 else 0) = encode (.penc mode tail) := by
  cases mode <;> cases tail <;> rfl

/-- The number of bytes PENC writes for the ARG2 pens of a snapshot. -/
def pencBytes (mode : Mode) (tail : Tail) (k : Snapshot) : Nat := pencCount mode tail (argNat k 2)

theorem pencBytes_eq (mode : Mode) (tail : Tail) (k : Snapshot) :
    pencBytes mode tail k =
      if tail = .crop then argNat k 2 / pixelsPerByte mode
      else (argNat k 2 + pixelsPerByte mode - 1) / pixelsPerByte mode := by
  rw [pixelsPerByte_eq_ppb]
  cases tail <;> rfl

theorem penRejected_iff {mode : Mode} {p : Byte} : penRejected mode p = true ↔ pencRejects mode p := by
  cases mode <;> simp [penRejected, pencRejects]

theorem penWarns_eq (mode : Mode) (p : Byte) :
    penWarns mode p = (decide (mode = .m1 ∨ mode = .m2) && decide (p.toNat > 3)) := by
  cases mode <;> simp [penWarns, penClamps]

/-- W_CLAMP belongs to modes 1 and 2 alone (40_pixel_codec.md R145). -/
theorem any_penWarns (mode : Mode) (l : List Nat) (q : Nat → Byte) :
    (l.any fun i => penWarns mode (q i)) =
      (decide (mode = .m1 ∨ mode = .m2) && l.any fun i => decide ((q i).toNat > 3)) := by
  simp only [penWarns_eq]
  cases decide (mode = .m1 ∨ mode = .m2) <;> simp

/-- What PENC commits when no pen is rejected. -/
def pencEffects (mode : Mode) (tail : Tail) (k : Snapshot) : Effects :=
  { res0 := some (BitVec.ofNat 32 (pencBytes mode tail k))
    dmem := packed (argNat k 1) (pencBytes mode tail k) fun j =>
      encGroup mode fun i => pencPen k (j * ppb mode + i)
    warnings :=
      { noWarnings with
        clamp := (List.range (pencBytes mode tail k * ppb mode)).any fun i => penWarns mode (pencPen k i) } }

/-- What PENC does behind its range checks: the first rejected pen, or the commit. -/
def pencScan (mode : Mode) (tail : Tail) (k : Snapshot) : CmdOutcome :=
  match (List.range (pencBytes mode tail k * ppb mode)).find? fun i => penRejected mode (pencPen k i) with
  | some i => .raise (.badPen i (pencPen k i))
  | none => .commit (pencEffects mode tail k)

theorem commandOutcome_penc (mode : Mode) (tail : Tail) (s : State) :
    commandOutcome (.penc mode tail) s =
      checkRanges s.cfg (argNat s.snap 0) (argNat s.snap 2) (argNat s.snap 1) (pencBytes mode tail s.snap)
        (pencScan mode tail s.snap) := rfl

theorem pencScan_of_rejected {mode : Mode} {tail : Tail} {k : Snapshot} {i : Nat}
    (hi : i < pencBytes mode tail k * ppb mode) (hbefore : ∀ j < i, ¬ pencRejects mode (pencPen k j))
    (hbad : pencRejects mode (pencPen k i)) :
    pencScan mode tail k = .raise (.badPen i (pencPen k i)) := by
  have hfind : ((List.range (pencBytes mode tail k * ppb mode)).find? fun i => penRejected mode (pencPen k i)) =
      some i := by
    refine List.find?_range_eq_some.2 ⟨penRejected_iff.2 hbad, List.mem_range.2 hi, fun j hj => ?_⟩
    simpa [← penRejected_iff] using hbefore j hj
  rw [pencScan, hfind]

theorem pencScan_of_accepted {mode : Mode} {tail : Tail} {k : Snapshot}
    (h : ∀ i < pencBytes mode tail k * ppb mode, ¬ pencRejects mode (pencPen k i)) :
    pencScan mode tail k = .commit (pencEffects mode tail k) := by
  have hfind : ((List.range (pencBytes mode tail k * ppb mode)).find? fun i => penRejected mode (pencPen k i)) =
      none :=
    List.find?_eq_none.2 fun i hi => mt penRejected_iff.1 (h i (List.mem_range.1 hi))
  rw [pencScan, hfind]

/-- Settles O22: the range checks, then the scan for a rejected pen, then one encoded byte for each group of pens. -/
theorem pencEncodesABuffer : Obligations.PencEncodesABuffer := by
  intro mode tail
  refine ⟨(decodeInvertsEncode.2 _ _).2 (encode_penc mode tail), ?_⟩
  rintro s src dst n k m q (rfl : src = argNat s.snap 0) (rfl : dst = argNat s.snap 1) (rfl : n = argNat s.snap 2)
    rfl hm (rfl : q = pencPen s.snap)
  obtain rfl : m = pencBytes mode tail s.snap := hm.trans (pencBytes_eq mode tail s.snap).symm
  rw [pixelsPerByte_eq_ppb]
  obtain ⟨hsource, hdestination, hscan⟩ := exec_checkRanges (commandOutcome_penc mode tail s)
  refine ⟨hsource, hdestination, fun hsrc hdst i hi hbefore hbad => ?_, fun hsrc hdst hwf haccepted => ?_⟩
  · exact exec_of_raise ((hscan hsrc hdst).trans (pencScan_of_rejected hi hbefore hbad))
  · have hexec := exec_of_commit ((hscan hsrc hdst).trans (pencScan_of_accepted haccepted))
    rw [pencEffects, commitCommand_clamp, any_penWarns] at hexec
    refine ⟨_, hexec, fun j hj => ?_, keepsOutside_packed hwf _ _ _⟩
    rw [memRead_packed_at hwf _ hj]
    exact showsPens_encGroup mode _

end Sys2Proof.Proofs

/-! The ink quantizer (41_ink_palette.md R172, R173, R188): `nearest` finds the first ink at the least squared distance,
and the inks' own colours are its fixed points. -/

namespace Sys2Proof.Proofs

open Sys2Proof Sys2Proof.Machine Sys2Proof.Claims

/-! ### Distances -/

theorem inkRgb_fin (cfg : Config) (i : Fin 27) : inkRgb cfg i.val = cfg.inkRgb[i] := by simp [inkRgb]

theorem sqDiff_cast (x y : Byte) : (sqDiff x y : Int) = ((x.toNat : Int) - y.toNat) ^ 2 := by
  rw [sqDiff, Nat.cast_pow, Nat.cast_sub min_le_max, Nat.cast_max, Nat.cast_min, max_sub_min_eq_abs', sq_abs]

theorem inkDist_cast (cfg : Config) (c : Rgb) (i : Fin 27) :
    (inkDist cfg c i.val : Int) = colourDistance c cfg.inkRgb[i] := by
  rw [inkDist, inkRgb_fin, colourDistance]
  push_cast
  simp only [sqDiff_cast]

/-- One squared difference is at most 255^2 (41_ink_palette.md R173). -/
theorem sqDiff_le (x y : Byte) : sqDiff x y ≤ 65025 := by
  have hdiff : max x.toNat y.toNat - min x.toNat y.toNat ≤ 255 := by omega
  calc sqDiff x y ≤ 255 ^ 2 := Nat.pow_le_pow_left hdiff 2
    _ = 65025 := by norm_num

theorem inkDist_le (cfg : Config) (c : Rgb) (i : Nat) : inkDist cfg c i ≤ 195075 := by
  have hr := sqDiff_le c.r (inkRgb cfg i).r
  have hg := sqDiff_le c.g (inkRgb cfg i).g
  have hb := sqDiff_le c.b (inkRgb cfg i).b
  unfold inkDist
  omega

theorem colourDistance_nonneg (c e : Rgb) : 0 ≤ colourDistance c e := by
  unfold colourDistance
  positivity

theorem colourDistance_eq_zero_iff {c e : Rgb} : colourDistance c e = 0 ↔ c = e := by
  obtain ⟨cr, cg, cb⟩ := c
  obtain ⟨er, eg, eb⟩ := e
  rw [colourDistance, add_eq_zero_iff_of_nonneg (by positivity) (by positivity),
    add_eq_zero_iff_of_nonneg (by positivity) (by positivity)]
  simp [sub_eq_zero, BitVec.toNat_inj, and_assoc]

/-! ### The first minimum -/

/-- `best` is the first of the n values of d that is least, with its value. -/
def IsFirstMin (d : Nat → Nat) (n : Nat) (best : Nat × Nat) : Prop :=
  best.1 < n ∧ best.2 = d best.1 ∧ (∀ j < n, d best.1 ≤ d j) ∧ ∀ j < best.1, d best.1 < d j

/-- One pass of R172's loop: value n replaces the best one when it is strictly less. -/
def keepLess (d : Nat → Nat) (best : Nat × Nat) (n : Nat) : Nat × Nat := if d n < best.2 then (n, d n) else best

theorem isFirstMin_keepLess {d : Nat → Nat} {n : Nat} {best : Nat × Nat} (h : IsFirstMin d n best) :
    IsFirstMin d (n + 1) (keepLess d best n) := by
  obtain ⟨hlt, hval, hleast, hfirst⟩ := h
  unfold keepLess
  split
  next hless =>
    rw [hval] at hless
    have hbelow : ∀ j < n, d n < d j := fun j hj => lt_of_lt_of_le hless (hleast j hj)
    refine ⟨Nat.lt_succ_self n, rfl, fun j hj => ?_, hbelow⟩
    obtain hj | rfl := Nat.lt_succ_iff_lt_or_eq.1 hj
    · exact (hbelow j hj).le
    · exact le_rfl
  next hge =>
    refine ⟨by omega, hval, fun j hj => ?_, hfirst⟩
    obtain hj | rfl := Nat.lt_succ_iff_lt_or_eq.1 hj
    · exact hleast j hj
    · omega

theorem isFirstMin_foldl (d : Nat → Nat) (n : Nat) :
    IsFirstMin d (1 + n) ((List.range' 1 n).foldl (keepLess d) (0, d 0)) := by
  induction n with
  | zero =>
    refine ⟨Nat.one_pos, rfl, fun j hj => ?_, nofun⟩
    obtain rfl : j = 0 := by omega
    exact le_rfl
  | succ n ih =>
    rw [List.range'_1_concat, List.foldl_concat]
    exact isFirstMin_keepLess ih

theorem nearest_isFirstMin (cfg : Config) (c : Rgb) : IsFirstMin (inkDist cfg c) 27 (nearest cfg c) :=
  isFirstMin_foldl (inkDist cfg c) 26

/-! ### The nearest ink -/

/-- `nearest` answers an ink and its distance. -/
theorem exists_nearest (cfg : Config) (c : Rgb) :
    ∃ ink : Fin 27, IsNearestInk cfg c ink ∧ nearest cfg c = (ink.val, (colourDistance c cfg.inkRgb[ink]).toNat) := by
  have hmin := nearest_isFirstMin cfg c
  generalize nearest cfg c = best at hmin
  obtain ⟨hlt, hval, hleast, hfirst⟩ := hmin
  refine ⟨⟨best.1, hlt⟩, ⟨fun j => ?_, fun j hj => ?_⟩, Prod.ext rfl ?_⟩
  · rw [← inkDist_cast, ← inkDist_cast]
    exact_mod_cast hleast j.val j.isLt
  · rw [← inkDist_cast, ← inkDist_cast]
    exact_mod_cast hfirst j.val hj
  · rw [hval, ← inkDist_cast, Int.toNat_natCast]

theorem isNearestInk_unique {cfg : Config} {c : Rgb} {i j : Fin 27} (hi : IsNearestInk cfg c i)
    (hj : IsNearestInk cfg c j) : i = j := by
  obtain ⟨hileast, hifirst⟩ := hi
  obtain ⟨hjleast, hjfirst⟩ := hj
  rcases lt_trichotomy i j with hlt | heq | hgt
  · exact absurd (hjfirst i hlt) (not_lt.2 (hileast j))
  · exact heq
  · exact absurd (hifirst j hgt) (not_lt.2 (hjleast i))

theorem nearest_eq_iff {cfg : Config} {c : Rgb} {ink : Fin 27} :
    (nearest cfg c).1 = ink.val ↔ IsNearestInk cfg c ink := by
  obtain ⟨j, hj, hval⟩ := exists_nearest cfg c
  rw [hval]
  refine ⟨fun h => ?_, fun h => ?_⟩
  · rwa [← Fin.ext h]
  · rw [isNearestInk_unique hj h]

theorem colourDistance_ink_le (cfg : Config) (c : Rgb) (ink : Fin 27) :
    colourDistance c cfg.inkRgb[ink] ≤ 195075 := by
  rw [← inkDist_cast]
  exact_mod_cast inkDist_le cfg c ink.val

/-! ### Idempotence -/

/-- An ink's own colour is at distance 0 of it, so the nearest ink is the first one of that colour. -/
theorem isNearestInk_own_iff {cfg : Config} {i j : Fin 27} :
    IsNearestInk cfg cfg.inkRgb[i] j ↔
      cfg.inkRgb[j] = cfg.inkRgb[i] ∧ ∀ q : Fin 27, q < j → cfg.inkRgb[q] ≠ cfg.inkRgb[i] := by
  refine ⟨fun ⟨hleast, hfirst⟩ => ?_, fun ⟨heq, hbefore⟩ => ?_⟩
  · have hzero : colourDistance cfg.inkRgb[i] cfg.inkRgb[j] = 0 :=
      le_antisymm ((hleast i).trans_eq (colourDistance_eq_zero_iff.2 rfl)) (colourDistance_nonneg _ _)
    refine ⟨(colourDistance_eq_zero_iff.1 hzero).symm, fun q hq hsame => ?_⟩
    have hless := hfirst q hq
    rw [hzero, hsame, colourDistance_eq_zero_iff.2 rfl] at hless
    exact lt_irrefl 0 hless
  · have hzero : colourDistance cfg.inkRgb[i] cfg.inkRgb[j] = 0 := colourDistance_eq_zero_iff.2 heq.symm
    refine ⟨fun q => hzero.trans_le (colourDistance_nonneg _ _), fun q hq => hzero.trans_lt ?_⟩
    exact lt_of_le_of_ne (colourDistance_nonneg _ _) fun h => hbefore q hq (colourDistance_eq_zero_iff.1 h.symm).symm

/-- No ink before the nearest one has its colour. -/
theorem isNearestInk_own_of_isNearestInk {cfg : Config} {c : Rgb} {j : Fin 27} (h : IsNearestInk cfg c j) :
    IsNearestInk cfg cfg.inkRgb[j] j := by
  obtain ⟨-, hfirst⟩ := h
  refine isNearestInk_own_iff.2 ⟨rfl, fun q hq hsame => ?_⟩
  have hless := hfirst q hq
  rw [hsame] at hless
  exact lt_irrefl _ hless

/-- Settles O56: the nearest ink of an ink's own colour is the first of that colour, and a nearest ink is the first of its
own. -/
theorem quantizerIsIdempotent : Obligations.QuantizerIsIdempotent := by
  refine fun cfg => ⟨fun i => ?_, fun c j hj => ?_⟩
  · obtain ⟨j, hj, hval⟩ := exists_nearest cfg cfg.inkRgb[i]
    exact ⟨j, congrArg Prod.fst hval, isNearestInk_own_iff.1 hj⟩
  · rw [hj, nearest_eq_iff]
    exact isNearestInk_own_of_isNearestInk (nearest_eq_iff.1 hj)

end Sys2Proof.Proofs

/-! The ink and palette commands on one value (41_ink_palette.md R180 to R184): the palette's lookups, and what each
command commits or raises. -/

namespace Sys2Proof.Proofs

open Sys2Proof Sys2Proof.Machine Sys2Proof.Laws Sys2Proof.Claims

/-! ### The palette -/

theorem palEntry_fin (pal : Vector PalEntry 17) (p : Fin 17) : palEntry pal p.val = pal[p] := by simp [palEntry]

/-- The test PFIND makes of one pen. -/
theorem entryHolds_iff {pal : Vector PalEntry 17} {i : Byte} {p : Fin 17} :
    ((palEntry pal p.val).valid && ((palEntry pal p.val).ink.setWidth 8 == i)) = true ↔ holdsInk pal p i.toNat := by
  rw [palEntry_fin, Bool.and_eq_true, beq_iff_eq, holdsInk, ← BitVec.toNat_inj,
    BitVec.toNat_setWidth_of_le (by decide)]

theorem pfind_eq_some_iff {pal : Vector PalEntry 17} {i : Byte} {p : Fin 17} :
    pfind pal i = some p.val ↔ IsFirstPen pal i.toNat p := by
  rw [pfind, List.find?_range_eq_some, entryHolds_iff, List.mem_range, IsFirstPen]
  refine ⟨fun ⟨hp, hlt, hbefore⟩ => ⟨hlt, hp, fun q hq hhold => ?_⟩,
    fun ⟨hlt, hp, hbefore⟩ => ⟨hp, hlt, fun q hq => ?_⟩⟩
  · simpa [entryHolds_iff.2 hhold] using hbefore q.val hq
  · rw [Bool.not_eq_true', ← Bool.not_eq_true]
    exact mt (entryHolds_iff (p := ⟨q, by omega⟩)).1 (hbefore ⟨q, by omega⟩ hq)

theorem pfind_eq_none_iff {pal : Vector PalEntry 17} {i : Byte} : pfind pal i = none ↔ NoPen pal i.toNat := by
  rw [pfind, List.find?_eq_none, NoPen]
  refine ⟨fun h p hp => mt entryHolds_iff.2 (h p.val (List.mem_range.2 hp)), fun h p hp => ?_⟩
  have hlt : p < 16 := List.mem_range.1 hp
  exact mt (entryHolds_iff (p := ⟨p, by omega⟩)).1 (h ⟨p, by omega⟩ hlt)

/-- `pfind` answers pens 0 to 15 only (41_ink_palette.md R175). -/
theorem exists_pfind_eq_some {pal : Vector PalEntry 17} {i : Byte} (h : ¬ NoPen pal i.toNat) :
    ∃ p : Fin 17, IsFirstPen pal i.toNat p ∧ pfind pal i = some p.val := by
  obtain ⟨p, hp⟩ := Option.ne_none_iff_exists'.1 (mt pfind_eq_none_iff.1 h)
  have hlt : p < 16 := List.mem_range.1 (List.mem_of_find?_eq_some hp)
  exact ⟨⟨p, by omega⟩, pfind_eq_some_iff.1 hp, hp⟩

theorem pgetError_of_gt {p : Byte} (h : p.toNat > 16) (pal : Vector PalEntry 17) (index : Nat) :
    pgetError pal index p = some (.badPen index p) := if_pos h

theorem pgetError_of_pen {pal : Vector PalEntry 17} {b : Byte} {p : Fin 17} (hp : b.toNat = p.val) (index : Nat) :
    pgetError pal index b = if pal[p].valid = false then some (.penUnset index b) else none := by
  rw [pgetError, if_neg (by omega), hp, palEntry_fin]

theorem pgetError_of_set {pal : Vector PalEntry 17} {b : Byte} {p : Fin 17} (hp : b.toNat = p.val)
    (hset : pal[p].valid = true) (index : Nat) : pgetError pal index b = none := by
  rw [pgetError_of_pen hp, if_neg (ne_false_of_eq_true hset)]

theorem pgetError_of_unset {pal : Vector PalEntry 17} {b : Byte} {p : Fin 17} (hp : b.toNat = p.val)
    (hunset : pal[p].valid = false) (index : Nat) : pgetError pal index b = some (.penUnset index b) := by
  rw [pgetError_of_pen hp, if_pos hunset]

theorem pgetInk_of_pen {pal : Vector PalEntry 17} {b : Byte} {p : Fin 17} (hp : b.toNat = p.val) :
    pgetInk pal b = pal[p].ink.setWidth 8 := by
  rw [pgetInk, hp, palEntry_fin]

/-! ### The quantizer: RGB2INK -/

/-- Settles O14: RGB2INK commits the nearest ink and its distance. -/
theorem rgb2inkFindsTheFirstNearestInk : Obligations.Rgb2inkFindsTheFirstNearestInk := by
  refine ⟨decode_encode .rgb2ink, ?_⟩
  rintro s c (rfl : c = rgbOfWord s.snap.args[0])
  obtain ⟨ink, hink, hnearest⟩ := exists_nearest s.cfg (rgbOfWord s.snap.args[0])
  refine ⟨ink, hink, colourDistance_ink_le .., ?_⟩
  have hexec := exec_of_commit (i := .rgb2ink) (s := s) rfl
  rw [commitCommand_two_results, hnearest] at hexec
  exact hexec

/-! ### The commands that check an ink: INK2RGB, INK2GA, PFIND -/

/-- An ink checked against the largest one. -/
def checkInk (i : Byte) (top : Nat) (o : CmdOutcome) : CmdOutcome := if i.toNat > top then .raise (.badInk 0 i) else o

/-- A command that checks its ink: BAD_INK above the largest one, else the outcome behind the check. -/
theorem exec_checkInk {c : Instr} {s : State} {i : Byte} {top : Nat} {o : CmdOutcome}
    (h : commandOutcome c s = checkInk i top o) :
    (i.toNat ≤ top → commandOutcome c s = o) ∧
      (i.toNat > top → exec c s = .next (failed s 0x03 0 (i.setWidth 32) 0 0)) := by
  refine ⟨fun hle => ?_, fun hgt => ?_⟩
  · exact h.trans (if_neg (Nat.not_lt.2 hle))
  · exact exec_of_raise (h.trans (if_pos hgt))

theorem inkGa_fin (cfg : Config) (i : Fin 27) : inkGa cfg i.val = cfg.inkGa[i] := by simp [inkGa]

theorem toNat_append_eq_add {m n : Nat} (x : BitVec m) (y : BitVec n) :
    (x ++ y).toNat = x.toNat * 2 ^ n + y.toNat := by
  rw [BitVec.toNat_append, ← Nat.shiftLeft_add_eq_or_of_lt y.isLt, Nat.shiftLeft_eq]

theorem rgbWord_eq (c : Rgb) :
    rgbWord c = BitVec.ofNat 32 (c.r.toNat * 65536 + c.g.toNat * 256 + c.b.toNat) := by
  apply BitVec.eq_of_toNat_eq
  simp only [rgbWord, ofLanes, toNat_append_eq_add, BitVec.ofNat_eq_ofNat, BitVec.toNat_ofNat]
  omega

/-- Settles O15: both commands check the ink, then answer its entry of their table. -/
theorem inkLookupsReadTheTables : Obligations.InkLookupsReadTheTables := by
  refine ⟨decode_encode .ink2rgb, decode_encode .ink2ga, fun s => ?_⟩
  obtain ⟨hrgb, hrgbBad⟩ := exec_checkInk (c := .ink2rgb) (s := s) rfl
  obtain ⟨hga, hgaBad⟩ := exec_checkInk (c := .ink2ga) (s := s) rfl
  refine ⟨fun i hi => ⟨?_, ?_⟩, fun hgt => ⟨hrgbBad hgt, hgaBad hgt⟩⟩
  · rw [exec_of_commit_res0 (hrgb (by omega)), hi, inkRgb_fin, rgbWord_eq]
  · rw [exec_of_commit_res0 (hga (by omega)), hi, inkGa_fin]
    rfl

/-- Settles O17: PFIND checks the ink, then answers what `pfind` found. -/
theorem pfindFindsTheSmallestPen : Obligations.PfindFindsTheSmallestPen := by
  refine ⟨decode_encode .pfind, ?_⟩
  rintro s i rfl
  obtain ⟨hfind, hbad⟩ := exec_checkInk (c := .pfind) (s := s) rfl
  refine ⟨fun hi p hp => ?_, fun hi hnone => ?_, hbad⟩
  · have hcommit := hfind hi
    rw [pfind_eq_some_iff.2 hp] at hcommit
    rw [exec_of_commit hcommit, commitCommand_two_results]
  · have hcommit := hfind hi
    rw [pfind_eq_none_iff.2 hnone] at hcommit
    rw [exec_of_commit hcommit, commitCommand_two_results]

/-! ### PGET -/

theorem runPget_of_error {k : Snapshot} {e : CmdError} (h : pgetError k.pal 0 (lane k.args[0] 0) = some e) :
    runPget k = .raise e := by
  simp only [runPget, h]

theorem runPget_of_set {k : Snapshot} (h : pgetError k.pal 0 (lane k.args[0] 0) = none) :
    runPget k = .commit { res0 := some (zext32 (pgetInk k.pal (lane k.args[0] 0))) } := by
  simp only [runPget, h]

/-- Settles O16: PGET raises the error of its pen, else answers its ink. -/
theorem pgetReadsASetPen : Obligations.PgetReadsASetPen := by
  refine ⟨decode_encode .pget, fun s => ⟨fun p hp => ⟨fun hset => ?_, fun hunset => ?_⟩, fun hgt => ?_⟩⟩
  · rw [exec_of_commit_res0 (i := .pget) (runPget_of_set (pgetError_of_set hp hset 0)), pgetInk_of_pen hp, zext32,
      BitVec.setWidth_setWidth (by decide)]
  · exact exec_of_raise (i := .pget) (runPget_of_error (pgetError_of_unset hp hunset 0))
  · exact exec_of_raise (i := .pget) (runPget_of_error (pgetError_of_gt hgt s.snap.pal 0))

end Sys2Proof.Proofs

/-! The ink and palette commands on a buffer (41_ink_palette.md R185 to R187): the packed output they share, the scan of
I2P and P2I for the first element with an error, and what each of the three writes. -/

namespace Sys2Proof.Proofs

open Sys2Proof Sys2Proof.Machine Sys2Proof.Laws Sys2Proof.Claims

/-! ### The packed output -/

/-- The DMEM a command with one packed output leaves: its bytes at dst, every other byte as before. -/
theorem exec_of_commit_packed {i : Instr} {s : State} {r : Word} {dst n : Nat} {f : Nat → Byte}
    (h : commandOutcome i s = .commit { res0 := some r, dmem := packed dst n f }) (hwf : memWf s.dmem = true) :
    ∃ m : Memory, exec i s = .next { succeeded s with res0 := r, dmem := m } ∧
      (∀ j < n, memRead m (dst + j) = f j) ∧ keepsOutside s m dst n :=
  ⟨_, (exec_of_commit h).trans (congrArg _ (commitCommand_buffer ..)),
    fun _ hj => memRead_packed_at hwf dst hj f, keepsOutside_packed hwf dst n f⟩

/-! ### RGBQ -/

theorem commandOutcome_rgbq (s : State) :
    commandOutcome .rgbq s =
      checkRanges s.cfg (argNat s.snap 0) (3 * argNat s.snap 2) (argNat s.snap 1) (argNat s.snap 2)
        (.commit
          { res0 := some (BitVec.ofNat 32 (argNat s.snap 2))
            dmem := packed (argNat s.snap 1) (argNat s.snap 2) fun j =>
              BitVec.ofNat 8 (nearest s.cfg (rgbqColour s.snap j)).1 }) := rfl

/-- A nearest ink fits a byte. -/
theorem exists_nearest_byte (cfg : Config) (c : Rgb) :
    ∃ ink : Fin 27, (BitVec.ofNat 8 (nearest cfg c).1).toNat = ink.val ∧ IsNearestInk cfg c ink := by
  obtain ⟨ink, hink, hval⟩ := exists_nearest cfg c
  refine ⟨ink, ?_, hink⟩
  rw [hval, BitVec.toNat_ofNat]
  omega

/-- Settles O19: the range checks, then the nearest ink of each colour. -/
theorem rgbqQuantizesABuffer : Obligations.RgbqQuantizesABuffer := by
  refine ⟨decode_encode .rgbq, ?_⟩
  rintro s src dst n (rfl : src = argNat s.snap 0) (rfl : dst = argNat s.snap 1) (rfl : n = argNat s.snap 2)
  obtain ⟨hsource, hdestination, hcommit⟩ := exec_checkRanges (commandOutcome_rgbq s)
  refine ⟨hsource, hdestination, fun hsrc hdst hwf => ?_⟩
  obtain ⟨m, hexec, hbytes, hkeeps⟩ := exec_of_commit_packed (hcommit hsrc hdst) hwf
  refine ⟨m, hexec, fun j hj => ?_, hkeeps⟩
  rw [hbytes j hj]
  exact exists_nearest_byte s.cfg (rgbqColour s.snap j)

/-! ### The scan of I2P and P2I -/

/-- The error of the first of n elements that has one, else the outcome behind the scan. -/
def scanElements (n : Nat) (error : Nat → Option CmdError) (o : CmdOutcome) : CmdOutcome :=
  match (List.range n).findSome? error with
  | some e => .raise e
  | none => o

theorem findSome?_range_of_first {α : Type} {n j : Nat} {f : Nat → Option α} {a : α} (hj : j < n)
    (hbefore : ∀ q < j, f q = none) (ha : f j = some a) : (List.range n).findSome? f = some a := by
  obtain ⟨k, rfl⟩ := Nat.exists_eq_add_of_lt hj
  refine List.findSome?_eq_some_iff.2
    ⟨List.range j, j, List.range' (j + 1) k, ?_, ha, fun q hq => hbefore q (List.mem_range.1 hq)⟩
  rw [← List.range'_succ, List.range_eq_range', List.range_eq_range', Nat.add_assoc, ← List.range'_append_1,
    Nat.zero_add]

theorem scanElements_of_first {n j : Nat} {error : Nat → Option CmdError} {e : CmdError} (hj : j < n)
    (hbefore : ∀ q < j, error q = none) (he : error j = some e) (o : CmdOutcome) :
    scanElements n error o = .raise e := by
  rw [scanElements, findSome?_range_of_first hj hbefore he]

theorem scanElements_of_none {n : Nat} {error : Nat → Option CmdError} (h : ∀ j < n, error j = none) (o : CmdOutcome) :
    scanElements n error o = o := by
  rw [scanElements, List.findSome?_eq_none_iff.2 fun j hj => h j (List.mem_range.1 hj)]

/-! ### I2P -/

theorem commandOutcome_i2p (s : State) :
    commandOutcome .i2p s =
      checkRanges s.cfg (argNat s.snap 0) (argNat s.snap 2) (argNat s.snap 1) (argNat s.snap 2)
        (scanElements (argNat s.snap 2) (i2pError s.snap)
          (.commit
            { res0 := some (BitVec.ofNat 32 (argNat s.snap 2))
              dmem := packed (argNat s.snap 1) (argNat s.snap 2) fun j =>
                BitVec.ofNat 8 ((pfind s.snap.pal (srcByte s.snap (argNat s.snap 0 + j))).getD 0) })) := rfl

theorem i2pError_of_gt {k : Snapshot} {j : Nat} (h : (srcByte k (argNat k 0 + j)).toNat > 31) :
    i2pError k j = some (.badInk j (srcByte k (argNat k 0 + j))) := if_pos h

theorem i2pError_of_noPen {k : Snapshot} {j : Nat} (hle : (srcByte k (argNat k 0 + j)).toNat ≤ 31)
    (hnone : NoPen k.pal (srcByte k (argNat k 0 + j)).toNat) :
    i2pError k j = some (.inkNotInPalette j (srcByte k (argNat k 0 + j))) :=
  (if_neg (Nat.not_lt.2 hle)).trans (if_pos (pfind_eq_none_iff.2 hnone))

theorem i2pError_of_found {k : Snapshot} {j : Nat}
    (h : (srcByte k (argNat k 0 + j)).toNat ≤ 31 ∧ ¬ NoPen k.pal (srcByte k (argNat k 0 + j)).toNat) :
    i2pError k j = none := by
  obtain ⟨hle, hsome⟩ := h
  exact (if_neg (Nat.not_lt.2 hle)).trans (if_neg (mt pfind_eq_none_iff.1 hsome))

/-- A found pen fits a byte. -/
theorem exists_pfind_byte {pal : Vector PalEntry 17} {i : Byte} (h : ¬ NoPen pal i.toNat) :
    ∃ p : Fin 17, IsFirstPen pal i.toNat p ∧ (BitVec.ofNat 8 ((pfind pal i).getD 0)).toNat = p.val := by
  obtain ⟨p, hp, hfind⟩ := exists_pfind_eq_some h
  refine ⟨p, hp, ?_⟩
  rw [hfind, Option.getD_some, BitVec.toNat_ofNat]
  omega

/-- Settles O20: the range checks, the scan for an ink without a pen, then the pen of each ink. -/
theorem i2pMapsInksToPens : Obligations.I2pMapsInksToPens := by
  refine ⟨decode_encode .i2p, ?_⟩
  rintro s src dst n ink (rfl : src = argNat s.snap 0) (rfl : dst = argNat s.snap 1) (rfl : n = argNat s.snap 2)
    (rfl : ink = fun j => srcByte s.snap (argNat s.snap 0 + j))
  obtain ⟨hsource, hdestination, hscan⟩ := exec_checkRanges (commandOutcome_i2p s)
  refine ⟨hsource, hdestination, fun hsrc hdst j hj hbefore => ?_, fun hsrc hdst hwf hfound => ?_⟩
  · have hfirst {e : CmdError} (he : i2pError s.snap j = some e) : commandOutcome .i2p s = .raise e :=
      (hscan hsrc hdst).trans (scanElements_of_first hj (fun q hq => i2pError_of_found (hbefore q hq)) he _)
    exact ⟨fun hgt => exec_of_raise (hfirst (i2pError_of_gt hgt)),
      fun hle hnone => exec_of_raise (hfirst (i2pError_of_noPen hle hnone))⟩
  · have hcommit := (hscan hsrc hdst).trans (scanElements_of_none (fun j hj => i2pError_of_found (hfound j hj)) _)
    obtain ⟨m, hexec, hbytes, hkeeps⟩ := exec_of_commit_packed hcommit hwf
    refine ⟨m, hexec, fun j hj => ?_, hkeeps⟩
    rw [hbytes j hj]
    exact exists_pfind_byte (hfound j hj).2

/-! ### P2I -/

theorem commandOutcome_p2i (s : State) :
    commandOutcome .p2i s =
      checkRanges s.cfg (argNat s.snap 0) (argNat s.snap 2) (argNat s.snap 1) (argNat s.snap 2)
        (scanElements (argNat s.snap 2) (fun j => pgetError s.snap.pal j (srcByte s.snap (argNat s.snap 0 + j)))
          (.commit
            { res0 := some (BitVec.ofNat 32 (argNat s.snap 2))
              dmem := packed (argNat s.snap 1) (argNat s.snap 2) fun j =>
                pgetInk s.snap.pal (srcByte s.snap (argNat s.snap 0 + j)) })) := rfl

/-- A byte that names a set pen has no error. -/
theorem pgetError_of_exists_set {pal : Vector PalEntry 17} {b : Byte}
    (h : ∃ p : Fin 17, b.toNat = p.val ∧ pal[p].valid = true) (index : Nat) : pgetError pal index b = none := by
  obtain ⟨p, hp, hset⟩ := h
  exact pgetError_of_set hp hset index

/-- Settles O21: the range checks, the scan for a byte that names no set pen, then the ink of each pen. -/
theorem p2iMapsPensToInks : Obligations.P2iMapsPensToInks := by
  refine ⟨decode_encode .p2i, ?_⟩
  rintro s src dst n pen (rfl : src = argNat s.snap 0) (rfl : dst = argNat s.snap 1) (rfl : n = argNat s.snap 2)
    (rfl : pen = fun j => srcByte s.snap (argNat s.snap 0 + j))
  obtain ⟨hsource, hdestination, hscan⟩ := exec_checkRanges (commandOutcome_p2i s)
  refine ⟨hsource, hdestination, fun hsrc hdst j hj hbefore => ?_, fun hsrc hdst hwf hset => ?_⟩
  · have hfirst {e : CmdError} (he : pgetError s.snap.pal j (srcByte s.snap (argNat s.snap 0 + j)) = some e) :
        commandOutcome .p2i s = .raise e :=
      (hscan hsrc hdst).trans (scanElements_of_first hj (fun q hq => pgetError_of_exists_set (hbefore q hq) q) he _)
    exact ⟨fun hgt => exec_of_raise (hfirst (pgetError_of_gt hgt _ j)),
      fun p hp hunset => exec_of_raise (hfirst (pgetError_of_unset hp hunset j))⟩
  · have hcommit := (hscan hsrc hdst).trans
      (scanElements_of_none (fun j hj => pgetError_of_exists_set (hset j hj) j) _)
    obtain ⟨m, hexec, hbytes, hkeeps⟩ := exec_of_commit_packed hcommit hwf
    exact ⟨m, hexec, fun j hj p hp => (hbytes j hj).trans (pgetInk_of_pen hp), hkeeps⟩

end Sys2Proof.Proofs

/-! The row-order sprite commands (42_sprite_packers.md R225 to R229): one packed copy with a height rule, a row order and
a reversal of odd rows, and the laws of R234 that follow from what each copy writes. -/

namespace Sys2Proof.Proofs

open Sys2Proof Sys2Proof.Machine Sys2Proof.Laws Sys2Proof.Claims

/-! ### The packed copy -/

/-- The height rule of the gray-coded orders, where a command has it (42_sprite_packers.md R226, R231). -/
def checkHeight (byEight : Bool) (h : Nat) (o : CmdOutcome) : CmdOutcome :=
  if byEight = true ∧ h % 8 ≠ 0 then .raise (.badHeight h) else o

/-- A command that checks a height: BAD_HEIGHT, else the outcome behind the check. -/
theorem exec_checkHeight {i : Instr} {s : State} {byEight : Bool} {h : Nat} {o : CmdOutcome}
    (hi : commandOutcome i s = checkHeight byEight h o) :
    ((byEight = true ∧ h % 8 ≠ 0) → exec i s = .next (failed s 0x06 (BitVec.ofNat 32 h) 8 0 0)) ∧
      (¬ (byEight = true ∧ h % 8 ≠ 0) → commandOutcome i s = o) :=
  ⟨fun hbad => exec_of_raise (hi.trans (if_pos hbad)), fun hok => hi.trans (if_neg hok)⟩

/-- Byte c of output row r of a packed copy: the byte its order takes from the sprite (42_sprite_packers.md R222). -/
def copiedByte (k : Snapshot) (row : Nat → Nat) (flips : Bool) (r c : Nat) : Byte :=
  spriteByte k (spriteOf k) (row r) (tileColumn flips (spriteOf k).w r c)

/-- What a row-order command does behind its height rule: its ranges, then the copy as one packed output. -/
theorem spriteCopy_eq_packed (cfg : Config) (k : Snapshot) (row : Nat → Nat) (flips : Bool) :
    spriteCopy cfg k row (tileColumn flips) =
      checkRanges cfg (spriteOf k).src (spriteLen (spriteOf k)) (argNat k 1) ((spriteOf k).w * (spriteOf k).h)
        (.commit
          { res0 := some (BitVec.ofNat 32 ((spriteOf k).w * (spriteOf k).h))
            dmem := packed (argNat k 1) ((spriteOf k).h * (spriteOf k).w) fun t =>
              copiedByte k row flips (t / (spriteOf k).w) (t % (spriteOf k).w) }) := by
  rw [packed, ← packedRows_eq (argNat k 1) _ _ (copiedByte k row flips)]
  rfl

/-- A command that is the packed copy with its height rule, its row order and its reversal of odd rows. -/
def IsRowOrderCopy (i : Instr) (byEight : Bool) (row : Nat → Nat) (flips : Bool) : Prop :=
  ∀ s : State, commandOutcome i s =
    checkHeight byEight (spriteOf s.snap).h (spriteCopy s.cfg s.snap row (tileColumn flips))

theorem isRowOrderCopy_sprlin : IsRowOrderCopy .sprlin false id false := fun _ => rfl

theorem isRowOrderCopy_sprlrl : IsRowOrderCopy .sprlrl false id true := fun _ => rfl

/-- The height rule as the model's three gray-coded commands write it. -/
theorem checkHeight_true (h : Nat) (o : CmdOutcome) :
    checkHeight true h o = if h % 8 ≠ 0 then .raise (.badHeight h) else o := by
  simp [checkHeight]

theorem isRowOrderCopy_sprgray : IsRowOrderCopy .sprgray true grayRow false := fun s =>
  (checkHeight_true (spriteOf s.snap).h (spriteCopy s.cfg s.snap grayRow (tileColumn false))).symm

theorem isRowOrderCopy_sprungray : IsRowOrderCopy .sprungray true ungrayRow false := fun s =>
  (checkHeight_true (spriteOf s.snap).h (spriteCopy s.cfg s.snap ungrayRow (tileColumn false))).symm

theorem isRowOrderCopy_sprzz : IsRowOrderCopy .sprzz true grayRow true := fun s =>
  (checkHeight_true (spriteOf s.snap).h (spriteCopy s.cfg s.snap grayRow (tileColumn true))).symm

/-- The horizontal counter: the columns of odd lines run backwards when it flips (42_sprite_packers.md R230). -/
theorem tileColumn_eq (flips : Bool) (w r c : Nat) :
    tileColumn flips w r c = if flips = true ∧ r % 2 = 1 then w - 1 - c else c := by
  cases flips <;> simp [tileColumn, zigzagColumn]

/-- A packed copy follows the rule of its row order. -/
theorem rowOrderRule_of_isRowOrderCopy {i : Instr} {word : Word} {byEight : Bool} {row : Nat → Nat} {flips : Bool}
    (hword : word = encode i) (hi : IsRowOrderCopy i byEight row flips) : rowOrderRule i word byEight row flips := by
  refine ⟨(decodeInvertsEncode.2 word i).2 hword, ?_⟩
  rintro s src dst w h stride (rfl : src = (spriteOf s.snap).src) (rfl : dst = argNat s.snap 1)
    (rfl : w = (spriteOf s.snap).w) (rfl : h = (spriteOf s.snap).h) (rfl : stride = (spriteOf s.snap).stride)
  obtain ⟨hheight, hcopy⟩ := exec_checkHeight (hi s)
  have hranges (hok : ¬ (byEight = true ∧ (spriteOf s.snap).h % 8 ≠ 0)) :=
    exec_checkRanges ((hcopy hok).trans (spriteCopy_eq_packed s.cfg s.snap row flips))
  refine ⟨hheight, fun hok => (hranges hok).1, fun hok => (hranges hok).2.1, fun hok hsrc hdst hwf => ?_⟩
  obtain ⟨-, -, hcommit⟩ := hranges hok
  obtain ⟨m, hexec, hbytes, hkeeps⟩ := exec_of_commit_packed (hcommit hsrc hdst) hwf
  refine ⟨m, hexec, fun r hr c hc => ?_, ?_⟩
  · rw [Nat.add_assoc, hbytes _ (row_pos_lt hr hc), row_pos_div hc, row_pos_mod hc, ← tileColumn_eq]
    rfl
  · rwa [Nat.mul_comm]

theorem rowOrderRule_sprlin : rowOrderRule .sprlin 0x00000040 false id false :=
  rowOrderRule_of_isRowOrderCopy rfl isRowOrderCopy_sprlin

theorem rowOrderRule_sprgray : rowOrderRule .sprgray 0x00000041 true grayRow false :=
  rowOrderRule_of_isRowOrderCopy rfl isRowOrderCopy_sprgray

theorem rowOrderRule_sprungray : rowOrderRule .sprungray 0x00000042 true ungrayRow false :=
  rowOrderRule_of_isRowOrderCopy rfl isRowOrderCopy_sprungray

theorem rowOrderRule_sprzz : rowOrderRule .sprzz 0x00000043 true grayRow true :=
  rowOrderRule_of_isRowOrderCopy rfl isRowOrderCopy_sprzz

theorem rowOrderRule_sprlrl : rowOrderRule .sprlrl 0x00000044 false id true :=
  rowOrderRule_of_isRowOrderCopy rfl isRowOrderCopy_sprlrl

/-- Settles O24: the five commands are one packed copy with five choices of height rule, row order and reversal. -/
theorem rowOrderCommandsCopyTheSprite : Obligations.RowOrderCommandsCopyTheSprite :=
  ⟨rowOrderRule_sprlin, rowOrderRule_sprgray, rowOrderRule_sprungray, rowOrderRule_sprzz, rowOrderRule_sprlrl⟩

/-! ### What a successful copy writes -/

/-- The checks a row-order command makes all pass (42_sprite_packers.md R221, R222, R226). -/
def CopyAllowed (byEight : Bool) (s : State) : Prop :=
  ¬ (byEight = true ∧ argNat s.snap 3 % 8 ≠ 0) ∧
    inRange s.cfg (argNat s.snap 0) (sourceLength (argNat s.snap 2) (argNat s.snap 3) (argNat s.snap 4)) ∧
    inRange s.cfg (argNat s.snap 1) (argNat s.snap 2 * argNat s.snap 3)

/-- Where a copy is allowed, so is the copy without a height rule. -/
theorem copyAllowed_without_height {byEight : Bool} {s : State} (h : CopyAllowed byEight s) : CopyAllowed false s :=
  ⟨nofun, h.2⟩

@[simp] theorem failed_errcode (s : State) (code : Byte) (i0 i1 i2 i3 : Word) :
    (failed s code i0 i1 i2 i3).status.errcode = code := rfl

@[simp] theorem badAddr_errcode (s : State) (a n : Nat) (which : Word) :
    (badAddr s a n which).status.errcode = 0x09 := rfl

section

variable {i : Instr} {word : Word} {byEight : Bool} {row : Nat → Nat} {flips : Bool} {s t : State}

/-- A row-order command that ends without an error has passed its checks. -/
theorem copyAllowed_of_errcode (hrule : rowOrderRule i word byEight row flips) (hexec : exec i s = .next t)
    (herr : t.status.errcode = 0) : CopyAllowed byEight s := by
  obtain ⟨hheight, hsource, hdestination, -⟩ := hrule.2 s _ _ _ _ _ rfl rfl rfl rfl rfl
  have hnot {u : State} (hu : exec i s = .next u) (hcode : u.status.errcode ≠ 0) : False := by
    cases hexec.symm.trans hu
    exact hcode herr
  have hok : ¬ (byEight = true ∧ argNat s.snap 3 % 8 ≠ 0) := fun hbad => hnot (hheight hbad) (by simp)
  have hsrc := not_not.1 fun hbad => hnot (hsource hok hbad) (by simp)
  have hdst := not_not.1 fun hbad => hnot (hdestination hok hsrc hbad) (by simp)
  exact ⟨hok, hsrc, hdst⟩

/-- A row-order command whose checks pass ends without an error, its output packed row after row at ARG1. -/
theorem copy_succeeds (hrule : rowOrderRule i word byEight row flips) (hallowed : CopyAllowed byEight s)
    (hwf : memWf s.dmem = true) (hexec : exec i s = .next t) :
    t.status.errcode = 0 ∧ ∀ r < argNat s.snap 3, ∀ c < argNat s.snap 2,
      memRead t.dmem (argNat s.snap 1 + r * argNat s.snap 2 + c) =
        srcByte s.snap (argNat s.snap 0 + row r * argNat s.snap 4 +
          (if flips = true ∧ r % 2 = 1 then argNat s.snap 2 - 1 - c else c)) := by
  obtain ⟨hok, hsrc, hdst⟩ := hallowed
  obtain ⟨-, -, -, hcopies⟩ := hrule.2 s _ _ _ _ _ rfl rfl rfl rfl rfl
  obtain ⟨m, hm, hbytes, -⟩ := hcopies hok hsrc hdst hwf
  cases hexec.symm.trans hm
  exact ⟨rfl, hbytes⟩

end

/-! ### The laws of R234 -/

/-- A copy that reverses odd rows, against the copy in the same row order that does not. -/
theorem flipped_copy_reverses_odd_rows {zig plain : Instr} {zigWord plainWord : Word} {byEight : Bool}
    {row : Nat → Nat} (hzig : rowOrderRule zig zigWord byEight row true)
    (hplain : rowOrderRule plain plainWord byEight row false) {s t u : State} (hwf : memWf s.dmem = true)
    (ht : exec zig s = .next t) (hu : exec plain s = .next u) (herr : t.status.errcode = 0) :
    u.status.errcode = 0 ∧ ∀ r < argNat s.snap 3, ∀ c < argNat s.snap 2,
      memRead t.dmem (argNat s.snap 1 + r * argNat s.snap 2 + c) =
        memRead u.dmem (argNat s.snap 1 + r * argNat s.snap 2 +
          (if r % 2 = 1 then argNat s.snap 2 - 1 - c else c)) := by
  have hallowed := copyAllowed_of_errcode hzig ht herr
  obtain ⟨-, hzigBytes⟩ := copy_succeeds hzig hallowed hwf ht
  obtain ⟨hplainErr, hplainBytes⟩ := copy_succeeds hplain hallowed hwf hu
  refine ⟨hplainErr, fun r hr c hc => ?_⟩
  have hcolumn : (if r % 2 = 1 then argNat s.snap 2 - 1 - c else c) < argNat s.snap 2 := by split <;> omega
  rw [hzigBytes r hr c hc, hplainBytes r hr _ hcolumn]
  simp

/-- Settles O58: SPRZZ and SPRGRAY, as SPRLRL and SPRLIN, differ in the reversal alone. -/
theorem zigzagReversesOddRows : Obligations.ZigzagReversesOddRows := by
  intro zig plain hpair s t u hwf ht hu herr
  obtain ⟨_, _, _, _, hzig, hplain⟩ : ∃ zigWord plainWord byEight row,
      rowOrderRule zig zigWord byEight row true ∧ rowOrderRule plain plainWord byEight row false := by
    obtain ⟨rfl, rfl⟩ | ⟨rfl, rfl⟩ := hpair
    · exact ⟨_, _, _, _, rowOrderRule_sprzz, rowOrderRule_sprgray⟩
    · exact ⟨_, _, _, _, rowOrderRule_sprlrl, rowOrderRule_sprlin⟩
  obtain ⟨hok, hrows⟩ := flipped_copy_reverses_odd_rows hzig hplain hwf ht hu herr
  refine ⟨hok, ?_⟩
  rintro dst w h rfl rfl rfl
  exact hrows

theorem gray_lt : ∀ i < 8, gray i < 8 := by decide

theorem ungray_lt : ∀ i < 8, ungray i < 8 := by decide

theorem gray_ungray : ∀ i < 8, gray (ungray i) = i := by decide

theorem ungray_gray : ∀ i < 8, ungray (gray i) = i := by decide

/-- Row r of every cell of 8 rows taken by a table (42_sprite_packers.md R226, R227). -/
def cellRow (g : Nat → Nat) (r : Nat) : Nat := 8 * (r / 8) + g (r % 8)

/-- A row order that keeps every row of a sprite of whole cells inside it, and that `row` undoes. -/
def UndoneBy (row inverse : Nat → Nat) : Prop :=
  ∀ h r : Nat, h % 8 = 0 → r < h → inverse r < h ∧ row (inverse r) = r

/-- Tables inverse to each other give row orders inverse to each other. -/
theorem cellRow_undoneBy {f g : Nat → Nat} (hlt : ∀ i < 8, g i < 8) (hinv : ∀ i < 8, f (g i) = i) :
    UndoneBy (cellRow f) (cellRow g) := by
  intro h r hh hr
  have hr8 : r % 8 < 8 := Nat.mod_lt r (by omega)
  have hg := hlt _ hr8
  have hdiv : cellRow g r / 8 = r / 8 := by rw [cellRow]; omega
  have hmod : cellRow g r % 8 = g (r % 8) := by rw [cellRow]; omega
  refine ⟨by rw [cellRow]; omega, ?_⟩
  rw [cellRow, hdiv, hmod, hinv _ hr8]
  omega

theorem grayRow_undoneBy_ungrayRow : UndoneBy grayRow ungrayRow := cellRow_undoneBy ungray_lt gray_ungray

theorem ungrayRow_undoneBy_grayRow : UndoneBy ungrayRow grayRow := cellRow_undoneBy gray_lt ungray_gray

/-- The operands of a command that reads the packed output of another. -/
theorem readsOutputOf_operands {s t u : State} (h : readsOutputOf s t u) :
    argNat u.snap 0 = argNat s.snap 1 ∧ argNat u.snap 2 = argNat s.snap 2 ∧ argNat u.snap 3 = argNat s.snap 3 ∧
      argNat u.snap 4 = argNat s.snap 2 ∧ ∀ a, srcByte u.snap a = memRead t.dmem a := by
  obtain ⟨hsrc, hw, hh, hstride, hmem⟩ := h
  exact ⟨congrArg BitVec.toNat hsrc, congrArg BitVec.toNat hw, congrArg BitVec.toNat hh,
    congrArg BitVec.toNat hstride, fun a => congrArg (memRead · a) hmem⟩

/-- A copy in one order, then the copy of its output in an order that undoes it, gives the bytes of SPRLIN. -/
theorem copy_then_undo {first second : Instr} {firstWord secondWord : Word} {row inverse : Nat → Nat}
    (hfirst : rowOrderRule first firstWord true row false)
    (hsecond : rowOrderRule second secondWord true inverse false) (hundo : UndoneBy row inverse) {s t u v l : State}
    (hs : memWf s.dmem = true) (hu : memWf u.dmem = true) (ht : exec first s = .next t) (hterr : t.status.errcode = 0)
    (hreads : readsOutputOf s t u) (hv : exec second u = .next v) (hverr : v.status.errcode = 0)
    (hl : exec .sprlin s = .next l) {r c : Nat} (hr : r < argNat s.snap 3) (hc : c < argNat s.snap 2) :
    memRead v.dmem (argNat u.snap 1 + r * argNat s.snap 2 + c) =
      memRead l.dmem (argNat s.snap 1 + r * argNat s.snap 2 + c) := by
  have hallowed := copyAllowed_of_errcode hfirst ht hterr
  have hheight : argNat s.snap 3 % 8 = 0 := by simpa using hallowed.1
  obtain ⟨hlt, hback⟩ := hundo _ r hheight hr
  obtain ⟨-, hfirstBytes⟩ := copy_succeeds hfirst hallowed hs ht
  obtain ⟨-, hsecondBytes⟩ := copy_succeeds hsecond (copyAllowed_of_errcode hsecond hv hverr) hu hv
  obtain ⟨-, hlinearBytes⟩ := copy_succeeds rowOrderRule_sprlin (copyAllowed_without_height hallowed) hs hl
  obtain ⟨hsrc, hw, hh, hstride, hmem⟩ := readsOutputOf_operands hreads
  simp only [hsrc, hw, hh, hstride, hmem] at hsecondBytes
  calc memRead v.dmem (argNat u.snap 1 + r * argNat s.snap 2 + c)
      = memRead t.dmem (argNat s.snap 1 + inverse r * argNat s.snap 2 + c) := by simpa using hsecondBytes r hr c hc
    _ = srcByte s.snap (argNat s.snap 0 + r * argNat s.snap 4 + c) := by simpa [hback] using hfirstBytes _ hlt c hc
    _ = memRead l.dmem (argNat s.snap 1 + r * argNat s.snap 2 + c) := by simpa using (hlinearBytes r hr c hc).symm

/-- Settles O57: G and GI are inverse tables, so each of the two row orders undoes the other. -/
theorem grayCodeRoundTrip : Obligations.GrayCodeRoundTrip := by
  intro first second hpair s t u v l hs hu ht hterr hreads hv hverr hl j hj
  obtain ⟨_, _, _, _, hfirst, hsecond, hundo⟩ : ∃ firstWord secondWord row inverse,
      rowOrderRule first firstWord true row false ∧ rowOrderRule second secondWord true inverse false ∧
        UndoneBy row inverse := by
    obtain ⟨rfl, rfl⟩ | ⟨rfl, rfl⟩ := hpair
    · exact ⟨_, _, _, _, rowOrderRule_sprgray, rowOrderRule_sprungray, grayRow_undoneBy_ungrayRow⟩
    · exact ⟨_, _, _, _, rowOrderRule_sprungray, rowOrderRule_sprgray, ungrayRow_undoneBy_grayRow⟩
  change j < argNat s.snap 2 * argNat s.snap 3 at hj
  have hr : j / argNat s.snap 2 < argNat s.snap 3 := Nat.div_lt_of_lt_mul hj
  have hc : j % argNat s.snap 2 < argNat s.snap 2 :=
    Nat.mod_lt j (Nat.pos_of_mul_pos_right (Nat.zero_lt_of_lt hj))
  have hbyte := copy_then_undo hfirst hsecond hundo hs hu ht hterr hreads hv hverr hl hr hc
  rwa [Nat.add_assoc, Nat.add_assoc, Nat.div_add_mod'] at hbyte

end Sys2Proof.Proofs

/-! The tile extractor (42_sprite_packers.md R230 to R233): its directions, its grid and what it writes, and the single
full-size tile of R234. -/

namespace Sys2Proof.Proofs

open Sys2Proof Sys2Proof.Machine Sys2Proof.Laws Sys2Proof.Claims

/-! ### Directions -/

theorem hdirFlips_supported {hdir : HDir} (h : hdir = .leftToRight ∨ hdir = .startFromLeftAndFlip) :
    hdirFlips hdir = some (decide (hdir = .startFromLeftAndFlip)) := by
  obtain rfl | rfl := h <;> rfl

theorem vdirGrays_supported {vdir : VDir} (h : vdir = .topToBottom ∨ vdir = .grayCodeFromTop) :
    vdirGrays vdir = some (decide (vdir = .grayCodeFromTop)) := by
  obtain rfl | rfl := h <;> rfl

theorem runTiles_supported {hdir : HDir} {vdir : VDir} {flips grays : Bool} (hh : hdirFlips hdir = some flips)
    (hv : vdirGrays vdir = some grays) (cfg : Config) (free : Word) (k : Snapshot) :
    runTiles cfg free hdir vdir k = tilesBody cfg k free flips grays := by
  simp only [runTiles, hh, hv]

theorem runTiles_unsupported {hdir : HDir} {vdir : VDir} (h : hdirFlips hdir = none ∨ vdirGrays vdir = none)
    (cfg : Config) (free : Word) (k : Snapshot) : runTiles cfg free hdir vdir k = .raise (.unsupported k.cmd) := by
  unfold runTiles
  split
  next hh hv => simp [hh, hv] at h
  next => rfl

/-- Settles O25: a rejected direction has no counter, so the command raises before it reads the descriptor. -/
theorem tilesRejectsRightStartAndUpwardScans : Obligations.TilesRejectsRightStartAndUpwardScans := by
  intro hdir vdir s hrejected
  have hnone : hdirFlips hdir = none ∨ vdirGrays vdir = none := by
    obtain rfl | rfl | rfl | rfl := hrejected
    · exact .inl rfl
    · exact .inl rfl
    · exact .inr rfl
    · exact .inr rfl
  exact exec_of_raise (i := .tiles hdir vdir) (runTiles_unsupported hnone s.cfg (Config.freeWord s.freeCount) s.snap)

/-! ### Parameters -/

theorem lowHalf_eq (v : Word) : lowHalf v = v.toNat % 65536 := by
  rw [lowHalf, BitVec.extractLsb'_toNat, Nat.shiftRight_zero]

theorem highHalf_eq (v : Word) : highHalf v = v.toNat / 65536 := by
  have hv := v.isLt
  rw [highHalf, BitVec.extractLsb'_toNat, Nat.shiftRight_eq_div_pow]
  omega

/-- The model's decoding of the tile parameters is the statements' (42_sprite_packers.md R232). -/
theorem tileGrid_eq {k : Snapshot} {tw th gw gh : Nat}
    (h : TileParameters k (spriteOf k).w (spriteOf k).h tw th gw gh) : tileGrid k = ⟨tw, th, gw, gh⟩ := by
  obtain ⟨rfl, rfl, rfl, rfl⟩ := h
  simp only [tileGrid, tileSize, gridSize, lowHalf_eq, highHalf_eq]

/-! ### What TILES does -/

/-- A grid of tiles that must fit the sprite (42_sprite_packers.md R233). -/
def checkGrid (sp : Sprite) (g : TileGrid) (o : CmdOutcome) : CmdOutcome :=
  if g.gw * g.tw > sp.w ∨ g.gh * g.th > sp.h then .raise (.gridMismatch (g.gw * g.tw) (g.gh * g.th) sp.w sp.h) else o

/-- What TILES commits for a grid. -/
def tilesEffects (k : Snapshot) (g : TileGrid) (free : Word) (flips grays : Bool) : Effects :=
  { res0 := some (tileCount g free)
    res1 := some (sat32 (g.tw * g.th))
    dmem := tileWrites k g flips grays
    freeUsed := if g.gw * g.gh < 2 ^ 32 then 0 else 1 }

theorem tilesBody_eq {k : Snapshot} {g : TileGrid} (hg : tileGrid k = g) (cfg : Config) (free : Word)
    (flips grays : Bool) :
    tilesBody cfg k free flips grays =
      checkGrid (spriteOf k) g (checkHeight grays g.th
        (checkRanges cfg (spriteOf k).src (spriteLen (spriteOf k)) (argNat k 1) (g.gw * g.gh * g.tw * g.th)
          (.commit (tilesEffects k g free flips grays)))) := by
  subst hg
  rfl

/-- Byte x of line y of a tile of the output, tiles numbered row after row (42_sprite_packers.md R233). -/
def tileByte (k : Snapshot) (g : TileGrid) (flips grays : Bool) (tile y x : Nat) : Byte :=
  spriteByte k (spriteOf k) (tile / g.gw * g.th + tileRow grays y) (tile % g.gw * g.tw + tileColumn flips g.tw y x)

theorem tileWrites_eq_packed (k : Snapshot) (g : TileGrid) (flips grays : Bool) :
    tileWrites k g flips grays = packed (argNat k 1) (g.gw * g.gh * g.tw * g.th) fun t =>
      tileByte k g flips grays (t / (g.th * g.tw)) (t % (g.th * g.tw) / g.tw) (t % (g.th * g.tw) % g.tw) := by
  have hlen : g.gh * g.gw * (g.th * g.tw) = g.gw * g.gh * g.tw * g.th := by ring
  rw [tileWrites_eq, hlen]
  rfl

/-- What TILES leaves at byte x of line y of tile (gy, gx). -/
theorem memRead_tileWrites {m : Memory} (hm : memWf m = true) (k : Snapshot) (g : TileGrid) (flips grays : Bool)
    {gy gx y x : Nat} (hgy : gy < g.gh) (hgx : gx < g.gw) (hy : y < g.th) (hx : x < g.tw) :
    memRead (memWriteAll m (tileWrites k g flips grays))
        (argNat k 1 + (gy * g.gw + gx) * g.tw * g.th + y * g.tw + x) =
      spriteByte k (spriteOf k) (gy * g.th + tileRow grays y) (gx * g.tw + tileColumn flips g.tw y x) := by
  have htile := row_pos_lt hgy hgx
  have hbyte := row_pos_lt hy hx
  have hpos := row_pos_lt htile hbyte
  have hlen : g.gh * g.gw * (g.th * g.tw) = g.gw * g.gh * g.tw * g.th := by ring
  have haddr : argNat k 1 + (gy * g.gw + gx) * g.tw * g.th + y * g.tw + x =
      argNat k 1 + ((gy * g.gw + gx) * (g.th * g.tw) + (y * g.tw + x)) := by ring
  rw [tileWrites_eq_packed, haddr, memRead_packed_at hm _ (hlen ▸ hpos), row_pos_div hbyte, row_pos_mod hbyte,
    row_pos_div hx, row_pos_mod hx, tileByte, row_pos_div hgx, row_pos_mod hgx]

theorem keepsOutside_tileWrites {s : State} (hwf : memWf s.dmem = true) (k : Snapshot) (g : TileGrid)
    (flips grays : Bool) :
    keepsOutside s (memWriteAll s.dmem (tileWrites k g flips grays)) (argNat k 1) (g.gw * g.gh * g.tw * g.th) := by
  rw [tileWrites_eq_packed]
  exact keepsOutside_packed hwf _ _ _

theorem commitCommand_tiles (s : State) (k : Snapshot) (g : TileGrid) (free : Word) (flips grays : Bool) :
    commitCommand s (tilesEffects k g free flips grays) =
      { succeeded s with
        res0 := tileCount g free
        res1 := sat32 (g.tw * g.th)
        dmem := memWriteAll s.dmem (tileWrites k g flips grays)
        freeCount := s.freeCount + if g.gw * g.gh < 2 ^ 32 then 0 else 1 } := by
  simp [commitCommand, tilesEffects, succeeded, memWriteAll]

/-- The vertical counter: the lines of each cell in gray-code order when it grays (42_sprite_packers.md R231). -/
theorem tileRow_decide (p : Prop) [Decidable p] (y : Nat) :
    tileRow (decide p) y = if p then 8 * (y / 8) + gray (y % 8) else y := by
  by_cases h : p
  · rw [if_pos h, decide_eq_true h]; rfl
  · rw [if_neg h, decide_eq_false h]; rfl

theorem commandOutcome_tiles {hdir : HDir} {vdir : VDir} (hh : hdir = .leftToRight ∨ hdir = .startFromLeftAndFlip)
    (hv : vdir = .topToBottom ∨ vdir = .grayCodeFromTop) {s : State} {g : TileGrid} (hg : tileGrid s.snap = g) :
    commandOutcome (.tiles hdir vdir) s =
      checkGrid (spriteOf s.snap) g (checkHeight (decide (vdir = .grayCodeFromTop)) g.th
        (checkRanges s.cfg (spriteOf s.snap).src (spriteLen (spriteOf s.snap)) (argNat s.snap 1)
          (g.gw * g.gh * g.tw * g.th)
          (.commit (tilesEffects s.snap g (Config.freeWord s.freeCount) (decide (hdir = .startFromLeftAndFlip))
            (decide (vdir = .grayCodeFromTop)))))) :=
  (runTiles_supported (hdirFlips_supported hh) (vdirGrays_supported hv) _ _ _).trans (tilesBody_eq hg _ _ _ _)

/-- A command that checks a grid: GRID_MISMATCH, else the outcome behind the check. -/
theorem exec_checkGrid {i : Instr} {s : State} {sp : Sprite} {g : TileGrid} {o : CmdOutcome}
    (hi : commandOutcome i s = checkGrid sp g o) :
    ((g.gw * g.tw > sp.w ∨ g.gh * g.th > sp.h) → exec i s = .next
      (failed s 0x07 (saturated (g.gw * g.tw)) (saturated (g.gh * g.th)) (BitVec.ofNat 32 sp.w)
        (BitVec.ofNat 32 sp.h))) ∧
      (g.gw * g.tw ≤ sp.w → g.gh * g.th ≤ sp.h → commandOutcome i s = o) :=
  ⟨fun hbad => exec_of_raise (hi.trans (if_pos hbad)), fun hw hh => hi.trans (if_neg (by omega))⟩

/-- Settles O26: behind its grid, height and range checks TILES writes one packed output, tile after tile. -/
theorem tilesCutsTheGrid : Obligations.TilesCutsTheGrid := by
  refine ⟨decode_encode (.tiles .leftToRight .topToBottom), decode_encode (.tiles .startFromLeftAndFlip .topToBottom),
    decode_encode (.tiles .leftToRight .grayCodeFromTop), decode_encode (.tiles .startFromLeftAndFlip .grayCodeFromTop),
    ?_⟩
  rintro hdir vdir s src dst w h stride tw th gw gh hhdir hvdir (rfl : src = (spriteOf s.snap).src)
    (rfl : dst = argNat s.snap 1) (rfl : w = (spriteOf s.snap).w) (rfl : h = (spriteOf s.snap).h)
    (rfl : stride = (spriteOf s.snap).stride) hparameters
  obtain ⟨hmismatch, hheight⟩ := exec_checkGrid (commandOutcome_tiles hhdir hvdir (tileGrid_eq hparameters))
  refine ⟨hmismatch, fun hw hh => ?_⟩
  obtain ⟨hbadHeight, hranges⟩ := exec_checkHeight (hheight hw hh)
  rw [decide_eq_true_eq] at hbadHeight hranges
  refine ⟨hbadHeight, fun hok => ?_⟩
  obtain ⟨hsource, hdestination, hcommit⟩ := exec_checkRanges (hranges hok)
  refine ⟨hsource, hdestination, fun hsrc hdst hwf => ?_⟩
  have hexec := exec_of_commit (hcommit hsrc hdst)
  rw [commitCommand_tiles] at hexec
  refine ⟨_, _, _, hexec, fun hcount => ?_, fun gy hgy gx hgx y hy x hx => ?_, keepsOutside_tileWrites hwf _ _ _ _⟩
  · exact ⟨if_pos hcount, by rw [if_pos hcount, Nat.add_zero]⟩
  · refine (memRead_tileWrites hwf _ _ _ _ hgy hgx hy hx).trans ?_
    simp only [tileRow_decide, tileColumn_eq, decide_eq_true_eq]
    rfl

/-! ### The single full-size tile -/

/-- Two outcomes that leave the same ERRCODE and the same DMEM. -/
def SameCodeAndDmem (o o' : CmdOutcome) : Prop :=
  ∀ s : State, (completeCommand s o).status.errcode = (completeCommand s o').status.errcode ∧
    (completeCommand s o).dmem = (completeCommand s o').dmem

theorem sameCodeAndDmem_commit {fx fx' : Effects} (h : fx.dmem = fx'.dmem) :
    SameCodeAndDmem (.commit fx) (.commit fx') := fun s =>
  ⟨rfl, congrArg (memWriteAll s.dmem) h⟩

/-- A check in front of both outcomes. -/
theorem sameCodeAndDmem_check {c : Prop} [Decidable c] {e : CmdError} {o o' : CmdOutcome} (h : SameCodeAndDmem o o') :
    SameCodeAndDmem (if c then .raise e else o) (if c then .raise e else o') := by
  split
  · exact fun _ => ⟨rfl, rfl⟩
  · exact h

/-- The one tile that is the whole sprite. -/
def wholeSprite (sp : Sprite) : TileGrid := ⟨sp.w, sp.h, 1, 1⟩

/-- A grid of the whole sprite fits it. -/
theorem checkGrid_wholeSprite (sp : Sprite) (o : CmdOutcome) : checkGrid sp (wholeSprite sp) o = o :=
  if_neg (by simp [wholeSprite])

theorem wholeSprite_length (sp : Sprite) :
    (wholeSprite sp).gw * (wholeSprite sp).gh * (wholeSprite sp).tw * (wholeSprite sp).th = sp.w * sp.h := by
  simp [wholeSprite]

/-- The writes of one full-size tile are those of the packed copy in the order of its counters. -/
theorem tileWrites_wholeSprite (k : Snapshot) (flips grays : Bool) :
    tileWrites k (wholeSprite (spriteOf k)) flips grays =
      packed (argNat k 1) ((spriteOf k).h * (spriteOf k).w) fun t =>
        copiedByte k (tileRow grays) flips (t / (spriteOf k).w) (t % (spriteOf k).w) := by
  rw [packed, ← packedRows_eq (argNat k 1) _ _ (copiedByte k (tileRow grays) flips)]
  simp [tileWrites, wholeSprite, copiedByte]

/-- TILES with one full-size tile makes the checks of the packed copy in the order of its counters, and its writes. -/
theorem tilesBody_wholeSprite {k : Snapshot} (hg : tileGrid k = wholeSprite (spriteOf k)) (cfg : Config)
    (free : Word) (flips grays : Bool) :
    SameCodeAndDmem (tilesBody cfg k free flips grays)
      (checkHeight grays (spriteOf k).h (spriteCopy cfg k (tileRow grays) (tileColumn flips))) := by
  rw [tilesBody_eq hg, checkGrid_wholeSprite, wholeSprite_length, spriteCopy_eq_packed]
  refine sameCodeAndDmem_check (sameCodeAndDmem_check (sameCodeAndDmem_check (sameCodeAndDmem_commit ?_)))
  exact tileWrites_wholeSprite k flips grays

/-- TILES with one full-size tile against the row-order copy that has the height rule, the row order and the reversal of
its directions. -/
theorem tiles_wholeSprite_eq_copy {hdir : HDir} {vdir : VDir} {plain : Instr} {flips grays : Bool}
    (hh : hdirFlips hdir = some flips) (hv : vdirGrays vdir = some grays)
    (hplain : IsRowOrderCopy plain grays (tileRow grays) flips) {s t u : State}
    (hg : tileGrid s.snap = wholeSprite (spriteOf s.snap)) (ht : exec (.tiles hdir vdir) s = .next t)
    (hu : exec plain s = .next u) : t.status.errcode = u.status.errcode ∧ t.dmem = u.dmem := by
  have htiles : commandOutcome (.tiles hdir vdir) s =
      tilesBody s.cfg s.snap (Config.freeWord s.freeCount) flips grays := runTiles_supported hh hv _ _ _
  rw [exec_eq_complete, htiles] at ht
  rw [exec_eq_complete, hplain s] at hu
  cases ht
  cases hu
  exact tilesBody_wholeSprite hg s.cfg (Config.freeWord s.freeCount) flips grays s

/-- Settles O59: each of the four direction pairs has the counters of its row-order command. -/
theorem singleTileEqualsRowOrder : Obligations.SingleTileEqualsRowOrder := by
  intro hdir vdir plain hpair s t u _ hparameters ht hu
  obtain ⟨flips, grays, hh, hv, hplain⟩ : ∃ flips grays, hdirFlips hdir = some flips ∧ vdirGrays vdir = some grays ∧
      IsRowOrderCopy plain grays (tileRow grays) flips := by
    obtain ⟨rfl, rfl, rfl⟩ | ⟨rfl, rfl, rfl⟩ | ⟨rfl, rfl, rfl⟩ | ⟨rfl, rfl, rfl⟩ := hpair
    · exact ⟨false, false, rfl, rfl, isRowOrderCopy_sprlin⟩
    · exact ⟨false, true, rfl, rfl, isRowOrderCopy_sprgray⟩
    · exact ⟨true, false, rfl, rfl, isRowOrderCopy_sprlrl⟩
    · exact ⟨true, true, rfl, rfl, isRowOrderCopy_sprzz⟩
  obtain ⟨hcode, hdmem⟩ := tiles_wholeSprite_eq_copy hh hv hplain (tileGrid_eq hparameters) ht hu
  exact ⟨hcode, fun a => by rw [hdmem]⟩

end Sys2Proof.Proofs

/-! DisplayAddress arithmetic and the memory-block packer (43_memory_block.md R270 to R277): the fields of an address, the
word after it, which word writes a PMEM byte last, and what DANEXT and MEMBLK commit or raise. -/

namespace Sys2Proof.Proofs

open Sys2Proof Sys2Proof.Machine Sys2Proof.Laws Sys2Proof.Claims

/-! ### The fields of a DisplayAddress -/

theorem toNat_daOffset (d : BitVec 14) : (daOffset d).toNat = d.toNat % 1024 := by
  simp [daOffset]

theorem toNat_daBuf (d : BitVec 14) : (daBuf d).toNat = d.toNat / 1024 % 4 := by
  simp [daBuf, Nat.shiftRight_eq_div_pow]

theorem toNat_daPage (d : BitVec 14) : (daPage d).toNat = d.toNat / 4096 := by
  have := d.isLt
  simp [daPage, Nat.shiftRight_eq_div_pow]
  omega

theorem toNat_daOf (page buf : BitVec 2) (offset : BitVec 10) :
    (daOf page buf offset).toNat = page.toNat * 4096 + buf.toNat * 1024 + offset.toNat := by
  have hbuf := buf.isLt
  have hoffset := offset.isLt
  rw [daOf, BitVec.toNat_append, BitVec.toNat_append, ← Nat.shiftLeft_add_eq_or_of_lt (by omega),
    ← Nat.shiftLeft_add_eq_or_of_lt (by omega), Nat.shiftLeft_eq, Nat.shiftLeft_eq]
  omega

/-- BUF of an address made from its fields. -/
theorem daBuf_daOf (page buf : BitVec 2) (offset : BitVec 10) : daBuf (daOf page buf offset) = buf := by
  have hbuf := buf.isLt
  have hoffset := offset.isLt
  apply BitVec.eq_of_toNat_eq
  rw [toNat_daBuf, toNat_daOf]
  omega

/-! ### The next word -/

theorem overscan_iff (d : BitVec 14) : overscan d = true ↔ d.toNat / 1024 % 4 = 3 := by
  rw [overscan, beq_iff_eq, ← BitVec.toNat_inj, toNat_daBuf]
  rfl

/-- The model's next word is the statements' (43_memory_block.md R272). -/
theorem nextWord_eq_wordAfter (d : BitVec 14) : nextWord d = wordAfter d := by
  have hd := d.isLt
  apply BitVec.eq_of_toNat_eq
  simp only [nextWord, wordAfter, toNat_daOffset, overscan_iff]
  split
  · simp only [toNat_daOf, BitVec.toNat_add, toNat_daPage, toNat_daBuf, toNat_daOffset, BitVec.toNat_ofNat,
      BitVec.reduceToNat]
    omega
  · split
    · simp only [toNat_daOf, BitVec.toNat_add, toNat_daPage, toNat_daBuf, BitVec.toNat_ofNat, BitVec.reduceToNat]
      omega
    · simp only [toNat_daOf, toNat_daPage, toNat_daBuf, BitVec.toNat_ofNat, BitVec.reduceToNat]
      omega

/-- The next word keeps BUF (43_memory_block.md R272). -/
theorem daBuf_nextWord (d : BitVec 14) : daBuf (nextWord d) = daBuf d := by
  unfold nextWord
  split
  · exact daBuf_daOf _ _ _
  · split <;> exact daBuf_daOf _ _ _

theorem walkAddr_succ (k : Snapshot) (t : Nat) : walkAddr k (t + 1) = nextWord (walkAddr k t) :=
  Function.iterate_succ_apply' nextWord t k.da

/-- The addresses of the walk are the statements'. -/
theorem walkAddr_eq_wordsAfter (k : Snapshot) (t : Nat) : walkAddr k t = wordsAfter k.da t := by
  induction t with
  | zero => rfl
  | succ t ih => rw [walkAddr_succ, ih, nextWord_eq_wordAfter, wordsAfter]

/-- The whole walk lies in one BUF. -/
theorem daBuf_walkAddr (k : Snapshot) (t : Nat) : daBuf (walkAddr k t) = daBuf k.da := by
  induction t with
  | zero => rfl
  | succ t ih => rw [walkAddr_succ, daBuf_nextWord, ih]

/-! ### DANEXT -/

theorem commitCommand_only_da (s : State) (d : BitVec 14) :
    commitCommand s { da := some d } = { succeeded s with da := d } := by
  simp [commitCommand, succeeded, statusSuccess, noWarnings]

/-- Settles O18: DANEXT commits the next word, and DAADDR is computed from DA. -/
theorem danextAdvancesOneWord : Obligations.DanextAdvancesOneWord := by
  refine ⟨decode_encode .danext, fun s => ⟨?_, ?_⟩⟩
  · rw [exec_of_commit (i := .danext) rfl, commitCommand_only_da, nextWord_eq_wordAfter]
  · exact congrArg (BitVec.ofNat 32) (daAddress_eq (wordAfter s.snap.da))

/-! ### The bytes of the walk -/

theorem wordByteAddr_eq_screenByteAddr (d : BitVec 14) (l b : Nat) : wordByteAddr d l b = screenByteAddr d l b := by
  rw [wordByteAddr, toNat_daPage, toNat_daOffset, screenByteAddr]

/-- With up to 8 lines, and inside one BUF, a PMEM byte belongs to one word, one line and one byte of the word. -/
theorem wordByteAddr_injective {d d' : BitVec 14} {l l' b b' : Nat} (hbuf : daBuf d = daBuf d') (hl : l ≤ 7)
    (hl' : l' ≤ 7) (hb : b < 2) (hb' : b' < 2) (h : wordByteAddr d l b = wordByteAddr d' l' b') :
    d = d' ∧ l = l' ∧ b = b' := by
  have hbufNat := congrArg BitVec.toNat hbuf
  simp only [wordByteAddr, toNat_daPage, toNat_daOffset, toNat_daBuf] at h hbufNat
  have hd := d.isLt
  have hd' := d'.isLt
  exact ⟨BitVec.eq_of_toNat_eq (by omega), by omega, by omega⟩

/-- The sprite row of line l of word t of the walk (43_memory_block.md R276). -/
def walkRow (k : Snapshot) (t l : Nat) : Nat := t / scrHdisp k.scrdim * (scrMra k.scrdim + 1) + l

/-- The sprite column of byte b of word t of the walk (43_memory_block.md R276). -/
def walkColumn (k : Snapshot) (t b : Nat) : Nat := t % scrHdisp k.scrdim * 2 + b

/-- The sprite has a byte for byte b of line l of word t of the walk. -/
def SpriteCovers (k : Snapshot) (t l b : Nat) : Prop :=
  walkRow k t l < (spriteOf k).h ∧ walkColumn k t b < (spriteOf k).w

/-- A word of the walk writes its bytes that the sprite covers, each with the sprite's byte. -/
theorem mem_walkWrites {k : Snapshot} {t : Nat} {c : Host.Cell} :
    c ∈ walkWrites k t ↔ ∃ l ≤ scrMra k.scrdim, ∃ b < 2, SpriteCovers k t l b ∧
      c = (wordByteAddr (walkAddr k t) l b, spriteByte k (spriteOf k) (walkRow k t l) (walkColumn k t b)) :=
  mem_wordWrites

/-- What a word of the walk writes at a byte of another (or of itself): the two lie at one address, and the byte is that
of the same line and place. -/
theorem walkWrites_at {k : Snapshot} (hmra : scrMra k.scrdim ≤ 7) {t t' l b : Nat} (hl : l ≤ scrMra k.scrdim)
    (hb : b < 2) {c : Host.Cell} (hc : c ∈ walkWrites k t') (haddr : c.1 = wordByteAddr (walkAddr k t) l b) :
    walkAddr k t' = walkAddr k t ∧ SpriteCovers k t' l b ∧
      c.2 = spriteByte k (spriteOf k) (walkRow k t' l) (walkColumn k t' b) := by
  obtain ⟨l', hl', b', hb', hcovers, rfl⟩ := mem_walkWrites.1 hc
  have hbuf : daBuf (walkAddr k t') = daBuf (walkAddr k t) := by rw [daBuf_walkAddr, daBuf_walkAddr]
  obtain ⟨hpos, rfl, rfl⟩ := wordByteAddr_injective hbuf (hl'.trans hmra) (hl.trans hmra) hb' hb haddr
  exact ⟨hpos, hcovers, rfl⟩

/-- PMEM after MEMBLK: nothing but the walk's writes (43_memory_block.md R276). -/
def screenMemory (k : Snapshot) : Memory := memWriteAll [] ((List.range (walkLength k)).flatMap (walkWrites k))

/-- A byte the sprite covers holds the sprite's byte of the last word at its address that the sprite covers there. -/
theorem memRead_screenMemory {k : Snapshot} (hmra : scrMra k.scrdim ≤ 7) {t l b : Nat} (ht : t < walkLength k)
    (hl : l ≤ scrMra k.scrdim) (hb : b < 2) (hcovers : SpriteCovers k t l b)
    (hlast : ∀ t' < walkLength k, t < t' → walkAddr k t' = walkAddr k t → ¬ SpriteCovers k t' l b) :
    memRead (screenMemory k) (wordByteAddr (walkAddr k t) l b) =
      spriteByte k (spriteOf k) (walkRow k t l) (walkColumn k t b) := by
  refine memRead_walk rfl k ht (mem_walkWrites.2 ⟨l, hl, b, hb, hcovers, rfl⟩) ?_ ?_
  · intro c hc haddr
    obtain ⟨-, -, hval⟩ := walkWrites_at hmra hl hb hc haddr
    exact hval
  · intro t' hlt ht' c hc haddr
    obtain ⟨hpos, hcovers', -⟩ := walkWrites_at hmra hl hb hc haddr
    exact hlast t' ht' hlt hpos hcovers'

/-- A byte of PMEM that no covered byte of the walk names is 0. -/
theorem memRead_screenMemory_of_uncovered {k : Snapshot} {a : Nat}
    (h : ∀ t < walkLength k, ∀ l ≤ scrMra k.scrdim, ∀ b < 2, SpriteCovers k t l b →
      wordByteAddr (walkAddr k t) l b ≠ a) : memRead (screenMemory k) a = 0 := by
  refine (memRead_memWriteAll_of_not_mem rfl fun c hc => ?_).trans (memRead_nil a)
  obtain ⟨t, ht, hc⟩ := List.mem_flatMap.1 hc
  obtain ⟨l, hl, b, hb, hcovers, rfl⟩ := mem_walkWrites.1 hc
  exact h t (List.mem_range.1 ht) l hl b hb hcovers

/-! ### The pages -/

theorem pageCount_eq_pagesIn (pm : BitVec 4) : pageCount pm = pagesIn pm := by
  simp only [pageCount, pagesIn, List.range_succ, List.range_zero, List.nil_append, List.countP_append,
    List.countP_singleton, Bool.toNat, Bool.cond_eq_ite]

/-- The result kind by the number of pages (43_memory_block.md R277). -/
theorem pageKind_fst (pm : BitVec 4) (v : BitVec 21) :
    (pageKind pm (scrUseTwoBanks v)).1 =
      if pagesIn pm = 1 then 1
      else if pagesIn pm = 2 ∧ 2 * scrHdisp v * scrVdisp v * (scrMra v + 1) > 0x4000 then 2 else 3 := by
  rw [pageKind, pageCount_eq_pagesIn, apply_ite Prod.fst, apply_ite Prod.fst]
  exact if_congr Iff.rfl rfl (if_congr (and_congr_right' decide_eq_true_iff) rfl rfl)

/-- W_PAGES goes with kind 3, a page count that is neither standard nor overscan (43_memory_block.md R277). -/
theorem pageKind_snd (pm : BitVec 4) (use2b : Bool) :
    (pageKind pm use2b).2 = decide ((pageKind pm use2b).1 = 3) := by
  unfold pageKind
  split
  · rfl
  · split <;> rfl

/-! ### MEMBLK -/

/-- A sprite that is not of the screen's size (43_memory_block.md R276). -/
def SizeMismatch (k : Snapshot) : Prop := (spriteOf k).w ≠ screenWidth k ∨ (spriteOf k).h ≠ screenHeight k

/-- What MEMBLK commits, its walk written as one loop over its words. -/
def memblkEffects (crop : Bool) (k : Snapshot) : Effects :=
  { res0 := some ((walkAddr k (walkLength k)).setWidth 32)
    clearPmem := true
    pmem := (List.range (walkLength k)).flatMap (walkWrites k)
    memblk := some (walkPages k (walkLength k), (pageKind (walkPages k (walkLength k)) (scrUseTwoBanks k.scrdim)).1)
    warnings :=
      { clamp := false
        dim := decide (crop = true ∧ ((spriteOf k).w < screenWidth k ∨ (spriteOf k).h < screenHeight k))
        pages := (pageKind (walkPages k (walkLength k)) (scrUseTwoBanks k.scrdim)).2 } }

section

variable {crop : Bool} {s : State}

theorem commandOutcome_memblk_of_mra (hmra : scrMra s.snap.scrdim > 7) :
    commandOutcome (.memblk crop) s = .raise (.badArg (scrMra s.snap.scrdim) 7) := if_pos hmra

theorem commandOutcome_memblk_of_size (hmra : scrMra s.snap.scrdim ≤ 7) (hcrop : crop = false)
    (hsize : SizeMismatch s.snap) :
    commandOutcome (.memblk crop) s = .raise (.dimMismatch (screenWidth s.snap) (screenHeight s.snap)
      (spriteOf s.snap).w (spriteOf s.snap).h) :=
  (if_neg (Nat.not_lt.2 hmra)).trans (if_pos ⟨hcrop, hsize⟩)

theorem commandOutcome_memblk_of_source (hmra : scrMra s.snap.scrdim ≤ 7)
    (hsize : ¬ (crop = false ∧ SizeMismatch s.snap))
    (hsrc : ¬ inRange s.cfg (spriteOf s.snap).src (spriteLen (spriteOf s.snap))) :
    commandOutcome (.memblk crop) s =
      .raise (.badAddr (spriteOf s.snap).src ((spriteOf s.snap).src + spriteLen (spriteOf s.snap)) .source) :=
  (if_neg (Nat.not_lt.2 hmra)).trans ((if_neg hsize).trans (if_pos hsrc))

theorem commandOutcome_memblk_of_checks (hmra : scrMra s.snap.scrdim ≤ 7)
    (hsize : ¬ (crop = false ∧ SizeMismatch s.snap))
    (hsrc : inRange s.cfg (spriteOf s.snap).src (spriteLen (spriteOf s.snap))) :
    commandOutcome (.memblk crop) s = .commit (memblkEffects crop s.snap) := by
  refine (if_neg (Nat.not_lt.2 hmra)).trans ((if_neg hsize).trans ((if_neg (not_not.2 hsrc)).trans ?_))
  simp only [walkScreen_eq, memblkEffects, Bool.decide_and, Bool.decide_or, Bool.decide_eq_true]

end

theorem commitCommand_memblk (crop : Bool) (s : State) :
    commitCommand s (memblkEffects crop s.snap) =
      { succeeded s with
        res0 := (walkAddr s.snap (walkLength s.snap)).setWidth 32
        pmem := screenMemory s.snap
        status := { (succeeded s).status with
          pageMask := walkPages s.snap (walkLength s.snap)
          memKind := (pageKind (walkPages s.snap (walkLength s.snap)) (scrUseTwoBanks s.snap.scrdim)).1
          wDim := s.status.wDim || decide (crop = true ∧
            ((spriteOf s.snap).w < screenWidth s.snap ∨ (spriteOf s.snap).h < screenHeight s.snap))
          wPages := s.status.wPages || decide
            ((pageKind (walkPages s.snap (walkLength s.snap)) (scrUseTwoBanks s.snap.scrdim)).1 = 3) } } := by
  rw [← pageKind_snd]
  simp [commitCommand, memblkEffects, succeeded, statusSuccess, screenMemory]

/-- Settles O27: behind its checks MEMBLK leaves what its walk writes, and the last covering word decides a byte. -/
theorem memblkLaysOutTheScreen : Obligations.MemblkLaysOutTheScreen := by
  refine ⟨decode_encode (.memblk false), decode_encode (.memblk true), ?_⟩
  rintro crop s src w h stride hd vd mra pos row col (rfl : src = (spriteOf s.snap).src) (rfl : w = (spriteOf s.snap).w)
    (rfl : h = (spriteOf s.snap).h) (rfl : stride = (spriteOf s.snap).stride) hhd hvd hmraEq hpos hrow hcol
  obtain rfl : hd = scrHdisp s.snap.scrdim := hhd.trans (scrHdisp_eq _).symm
  obtain rfl : vd = scrVdisp s.snap.scrdim := hvd.trans (scrVdisp_eq _).symm
  obtain rfl : mra = scrMra s.snap.scrdim := hmraEq.trans (scrMra_eq _).symm
  obtain rfl : pos = walkAddr s.snap := hpos.trans (funext fun t => (walkAddr_eq_wordsAfter s.snap t).symm)
  obtain rfl : row = walkRow s.snap := hrow
  obtain rfl : col = walkColumn s.snap := hcol
  refine ⟨fun hmra => exec_of_raise (commandOutcome_memblk_of_mra hmra),
    fun hmra hcrop hsize => exec_of_raise (commandOutcome_memblk_of_size hmra hcrop hsize), fun hmra hallowed => ?_⟩
  have hsize : ¬ (crop = false ∧ SizeMismatch s.snap) := by
    rintro ⟨rfl, hmismatch⟩
    obtain hcrop | ⟨hw, hh⟩ := hallowed
    · cases hcrop
    · exact hmismatch.elim (absurd hw) (absurd hh)
  refine ⟨fun hsrc => exec_of_raise (commandOutcome_memblk_of_source hmra hsize hsrc), fun hsrc => ?_⟩
  have hexec := exec_of_commit (commandOutcome_memblk_of_checks hmra hsize hsrc)
  rw [commitCommand_memblk] at hexec
  refine ⟨_, _, _, hexec, fun p hp => ?_, pageKind_fst _ _, fun t ht l hl b hb hr hc hlast => ?_, fun a ha => ?_⟩
  · simp only [walk_pages s.snap _ p hp, toNat_daPage]
    rfl
  · rw [← wordByteAddr_eq_screenByteAddr]
    exact memRead_screenMemory hmra ht hl hb ⟨hr, hc⟩ hlast
  · simp only [← wordByteAddr_eq_screenByteAddr] at ha
    exact memRead_screenMemory_of_uncovered fun t ht l hl b hb ⟨hr, hc⟩ => ha t ht l hl b hb hr hc

end Sys2Proof.Proofs

/-! The control command (44_control.md R300): the one word of NOP, and what NOP commits. -/

namespace Sys2Proof.Proofs

open Sys2Proof Sys2Proof.Machine Sys2Proof.Laws Sys2Proof.Claims

theorem encode_nop : encode .nop = 0 := by decide

theorem decode_eq_nop_iff {w : Word} : decode w = .instr .nop ↔ w = 0 := by
  rw [decodeInvertsEncode.2, encode_nop]

/-- No other row of the table has NOP's opcode (30_encoding.md R98). -/
theorem opc_eq_zero_iff {i : Instr} : i.opc = 0 ↔ i = .nop := by
  cases i <;> simp [Instr.opc]

/-- A legal word has its command's opcode in its low byte (30_encoding.md R91). -/
theorem opc_toNat_of_decode {w : Word} {i : Instr} (h : decode w = .instr i) : i.opc.toNat = w.toNat % 256 := by
  rw [← splitWord_opc_toNat, decode_eq_instr_iff_splitWord.1 h, toFields_opc]

/-- With OPC 0 every other bit must be 0 (30_encoding.md R97). -/
theorem eq_zero_of_decode_of_opc_zero {w : Word} {i : Instr} (h : decode w = .instr i) (hopc : w.toNat % 256 = 0) :
    w = 0 := by
  have hzero : i.opc = 0 := BitVec.eq_of_toNat_eq ((opc_toNat_of_decode h).trans hopc)
  obtain rfl := opc_eq_zero_iff.1 hzero
  exact decode_eq_nop_iff.1 h

/-- A commit that schedules nothing leaves the completion fields alone (30_encoding.md R104, R105). -/
theorem commitCommand_nothing (s : State) : commitCommand s {} = succeeded s := by
  simp [commitCommand, succeeded, statusSuccess, noWarnings]

/-- Settles O7: NOP's encoding is 0 and it schedules nothing; a word with its opcode and another bit has no command. -/
theorem nopOnlyCompletes : Obligations.NopOnlyCompletes := by
  refine ⟨fun w => decode_eq_nop_iff, fun s => ?_, fun s hopc hne => ?_⟩
  · rw [exec_of_commit (i := .nop) rfl, commitCommand_nothing]
  · exact engineStep_illegal fun ⟨_, hi⟩ => hne (eq_zero_of_decode_of_opc_zero hi hopc)

end Sys2Proof.Proofs

/-! The interrupt and the idle engine (60_exceptions.md R317, R327). -/

namespace Sys2Proof.Proofs

open Sys2Proof Sys2Proof.Machine Sys2Proof.Laws

/-! ### The interrupt output -/

/-- A completion sets DONE and keeps IE, so IRQ is IE after it (60_exceptions.md R317). -/
theorem completeCommand_irq (s : State) (o : CmdOutcome) : (completeCommand s o).irq = s.ie := by
  obtain ⟨-, -, hdone⟩ := completeCommand_ends_command s o
  obtain ⟨-, -, -, hie, -⟩ := completeCommand_keeps_host_registers s o
  rw [State.irq, hdone, hie, Bool.and_true]

/-- A STATUS write clears DONE by a 1 in bit 1 (10_state.md R26). -/
theorem statusClear_done (st : Status) (v : Word) : (statusClear st v).done = (st.done && !v.getLsbD 1) := rfl

/-- A CTRL write without SRST stores IE and nothing else, in the pending window too (10_state.md R23). -/
theorem writeReg_ctrl {v : Word} (h : v.getLsbD 1 = false) (s : State) :
    writeReg s .ctrl v = { s with ie := v.getLsbD 0 } := by
  unfold writeReg
  split
  · rw [writeRegBusy_ctrl, h, Bool.or_false]
  · exact writeRegIdle_ctrl h s

/-- Settles O41: an engine step is a completion; a STATUS write with DONE's bit clears DONE, and a CTRL write without SRST
changes IE alone. -/
theorem irqIsIeAndDone : Obligations.IrqIsIeAndDone := by
  refine ⟨fun s => rfl, fun s t hstep => ?_, fun s v rest hs hv => ?_, fun s v rest hs hv => ?_⟩
  · obtain ⟨o, rfl⟩ := engineStep_completes hstep
    exact completeCommand_irq s o
  · refine ⟨_, step_regWrite hs (by decide) (by decide), ?_⟩
    rw [regAt_eq_status.2 rfl, writeReg_status_eq]
    simp [State.irq, statusClear_done, hv]
  · refine ⟨_, step_regWrite hs (by decide) (by decide), ?_⟩
    rw [regAt_eq_ctrl.2 rfl, writeReg_ctrl hv]
    rfl

/-! ### The engine with nothing pending -/

theorem engineTurn_idle {s : State} (h : s.pending = false) : engineTurn s = .next s := by
  rw [engineTurn, h]
  rfl

/-- Settles O49: an empty schedule and an engine's move both give the engine its turn, and an idle engine does nothing. -/
theorem idleBlockKeepsItsState : Obligations.IdleBlockKeepsItsState := by
  intro s hidle
  refine ⟨fun hs => ?_, fun rest hs => ?_⟩
  · exact (step_empty hs).trans (engineTurn_idle hidle)
  · exact (step_cons hs).trans (engineTurn_idle hidle)

end Sys2Proof.Proofs

/-! Resets and the pending window (70_reset_and_hazards.md R351, R352, R357): the memories a hardware reset leaves, the
soft reset, and the host's memory accesses while a command is pending. -/

namespace Sys2Proof.Proofs

open Sys2Proof Sys2Proof.Machine Sys2Proof.Laws

/-! ### The contents a hardware reset is given -/

/-- An address no cell lists reads as an unlisted one. -/
theorem memRead_of_not_listed {m : Memory} {a : Nat} (h : ∀ c ∈ m, c.1 ≠ a) : memRead m a = unlistedByte := by
  induction m with
  | nil => rfl
  | cons c rest ih =>
    rw [memRead, if_neg (h c List.mem_cons_self)]
    exact ih fun d hd => h d (List.mem_cons_of_mem c hd)

/-- The bound of the canonical form holds for every cell, the addresses rising. -/
theorem le_address_of_mem {lo : Nat} {m : Memory} (h : memWfFrom lo m = true) {c : Host.Cell} (hc : c ∈ m) :
    lo ≤ c.1 := by
  induction m generalizing lo with
  | nil => cases hc
  | cons head rest ih =>
    obtain ⟨hlo, -, hrest⟩ := memWfFrom_cons.1 h
    obtain rfl | htail := List.mem_cons.1 hc
    · exact hlo
    · have habove := ih hrest htail
      omega

/-- A canonical memory lists an address once, so each of its cells is what its address reads. -/
theorem memRead_of_mem {lo : Nat} {m : Memory} (h : memWfFrom lo m = true) {c : Host.Cell} (hc : c ∈ m) :
    memRead m c.1 = c.2 := by
  induction m generalizing lo with
  | nil => cases hc
  | cons head rest ih =>
    obtain ⟨-, -, hrest⟩ := memWfFrom_cons.1 h
    obtain rfl | htail := List.mem_cons.1 hc
    · exact if_pos rfl
    · have habove := le_address_of_mem hrest htail
      rw [memRead, if_neg (by omega), ih hrest htail]

/-- Writing a canonical memory's cells into an empty one copies it. -/
theorem memWriteAll_nil_of_memWf {m : Memory} (h : memWf m = true) : memWriteAll [] m = m := by
  refine memory_eq_of_reads (memWf_memWriteAll rfl m) h fun a => ?_
  by_cases hlisted : ∃ c ∈ m, c.1 = a
  · obtain ⟨c, hc, rfl⟩ := hlisted
    rw [memRead_of_mem h hc]
    refine memRead_memWriteAll_of_mem rfl hc fun d hd hdc => ?_
    rw [← memRead_of_mem h hd, hdc, memRead_of_mem h hc]
  · have hnone : ∀ c ∈ m, c.1 ≠ a := fun c hc hca => hlisted ⟨c, hc, hca⟩
    rw [memRead_memWriteAll_of_not_mem rfl hnone, memRead_of_not_listed hnone, memRead_nil]

/-- Canonical contents inside their space are taken as they are. -/
theorem memOfCells_of_memWf {size : Nat} {m : Memory} (h : memWf m = true) (hin : memWithin size m = true) :
    memOfCells size m = m := by
  rw [memOfCells, List.filter_eq_self.2 (List.all_eq_true.1 hin), memWriteAll_nil_of_memWf h]

/-- Settles O36: each memory after the reset is the canonical memory of the contents given, which is those contents. -/
theorem hardwareResetTakesAnyMemoryContents : Obligations.HardwareResetTakesAnyMemoryContents := by
  intro s d p hd hdin hp hpin
  refine ⟨fun a => ?_, fun a => ?_⟩
  · rw [hardReset_dmem, memOfCells_of_memWf hd hdin]
  · rw [hardReset_pmem, pmemSize, memOfCells_of_memWf hp hpin]

/-! ### The soft reset -/

/-- The registers after a soft reset are those after a reset to any memories: no register shows a memory. -/
theorem readReg_resetRegisters (s : State) (r : Reg) : readReg (resetRegisters s) r = regResetValue s.cfg r := by
  rw [← readReg_resetWith s.cfg s.dmem s.pmem r]
  cases r <;> rfl

/-- An idle CTRL write with SRST is the soft reset, whatever its other bits hold. -/
theorem writeRegIdle_srst {v : Word} (h : v.getLsbD 1 = true) (s : State) :
    writeRegIdle s .ctrl v = resetRegisters s := if_pos h

/-- Settles O37: the write passes the checks of R68; it is the soft reset of an idle block and a refused one of a busy
block. -/
theorem softResetClearsRegistersOnly : Obligations.SoftResetClearsRegistersOnly := by
  intro s v rest hs hv
  have hctrl : regAt 0x04 = .ctrl := regAt_eq_ctrl.2 rfl
  refine ⟨fun hb => ?_, fun hb => ?_⟩
  · have hstep : step s = .next (resetRegisters { s with schedule := rest }) := by
      rw [step_regWrite_idle hb hs rfl (by decide), hctrl, writeRegIdle_srst hv]
    refine ⟨_, hstep, fun off ha hl => ?_, rfl, rfl, rfl, rfl, rfl⟩
    rw [readReg_resetRegisters, resetValue_eq s.cfg ha hl]
  · rw [step_regWrite_busy hb hs rfl (by decide), hctrl, writeRegBusy_ctrl, hv, Bool.or_true]

/-! ### Memory accesses in the pending window -/

/-- In the pending window a byte access is refused before its address is looked at. -/
theorem byteAccess_busy {s : State} (hb : s.status.busy = true) (space : MemSpace) (a : Nat) (k : StepOutcome) :
    byteAccess s space a k = .refused (.pendingWindowAccess space a) := if_pos hb

/-- Settles O47: the next move is a byte access, a read or a write, and is refused as one. -/
theorem pendingWindowMemoryAccessIsRefused : Obligations.PendingWindowMemoryAccessIsRefused := by
  intro s space a b rest hb hs
  obtain hread | hwrite := hs
  · exact (step_cons hread).trans (byteAccess_busy hb space a _)
  · exact (step_cons hwrite).trans (byteAccess_busy hb space a _)

end Sys2Proof.Proofs
